-- ==== Sys2Proof/Word.lean ====
section
/-! DEFINITION. The word types of the OTP core (spec/00_scope.md section 5.1): bytes, the 32-bit words of the register
window and the 64-bit registers. -/

namespace Sys2Proof

/-- A byte (spec/00_scope.md section 5.2). -/
abbrev Byte := BitVec 8

/-- A word of the register window (R6 `WORD_BITS`). -/
abbrev Word32 := BitVec 32

/-- The width of `COUNTER`, `TIME`, `PCODE` and `CODE_ASCII` (R15, R16, R18, R20). -/
abbrev Word64 := BitVec 64

end Sys2Proof
end

