-- ==== Sys2Proof/Config.lean ====
section
/-! DEFINITION. The implementation parameters of R6: what an instantiation fixes (`Config`) and the constants that are
the same in every instantiation. -/

namespace Sys2Proof

/-- The one parameter a model takes as an argument (R6, U15): the capacity of the key buffer. The configuration type
carries the constraint, so an illegal configuration cannot be written. -/
structure Config where
  /-- `KEY_MAX_BYTES` -/
  keyMaxBytes : Nat
  multipleOfFour : keyMaxBytes % 4 = 0
  aboveLargestBlock : 148 ≤ keyMaxBytes
  deriving DecidableEq, Repr

/-- The default instantiation, `KEY_MAX_BYTES = 256` (R6). -/
def Config.standard : Config := ⟨256, by decide, by decide⟩

/-- `STEP`: seconds per time window (R6). -/
def Config.stepSeconds : Nat := 30

/-- `DIGITS`: characters of a code (R6). -/
def Config.digits : Nat := 6

/-- `MODULUS` (R6). -/
def Config.modulus : Nat := 1000000

/-- `TOL_DEFAULT`: the effective tolerance when none is supplied (R6, R63). -/
def Config.tolDefault : Nat := 1

end Sys2Proof
end

