-- ==== Sys2Proof/Syntax.lean ====
section
/-! DEFINITION. The command set (R60) as syntax, one constructor per row of spec/opcode_table.json, and the closed list
of algorithms an `ALG` code may select (R80). -/

namespace Sys2Proof

/-- The eleven keyed-hash identifiers of R80, in the order of their codes 0x1 to 0xB. -/
inductive Alg where
  | sha1
  | sha224
  | sha256
  | sha384
  | sha512
  | sha512t224
  | sha512t256
  | sha3x224
  | sha3x256
  | sha3x384
  | sha3x512
  deriving DecidableEq, Repr

/-- The four commands (R60, R61). `alg` is the `ALG` field as it stands in the word: the codes 0 and 12 to 15 are legal
encodings that select nothing (R66). `tolv` is the presence bit of R63. `ign` is bits 31:4 of a CLEAR word, which CLEAR
ignores (R65); keeping them makes decoding lose no bit. -/
inductive Instr where
  | hotp (alg : Nat)
  | totp (alg : Nat)
  | verify (alg : Nat) (tolv : Bool)
  | clear (ign : Nat)
  deriving DecidableEq, Repr

end Sys2Proof
end

