-- ==== Sys2Proof/WellFormed.lean ====
section
/-! DEFINITION. Which terms of `Instr` have an encoding: each field fits the bits format `C` gives it (R61, R65). -/

namespace Sys2Proof

/-- `ALG` is the 4-bit field 7:4 (R61). -/
def algFits (alg : Nat) : Bool := alg < 2 ^ 4

/-- The ignored part of a CLEAR word is the 28-bit field 31:4 (R65). -/
def ignFits (ign : Nat) : Bool := ign < 2 ^ 28

/-- Every field of the command fits its bits. -/
def Instr.wellFormed : Instr → Bool
  | .hotp alg => algFits alg
  | .totp alg => algFits alg
  | .verify alg _ => algFits alg
  | .clear ign => ignFits ign

end Sys2Proof
end

