-- ==== Sys2Proof/Decode.lean ====
section
/-! DEFINITION. Decoding of a word written to `CMD` (R65), total on every 32-bit value and rejecting by name; the
match/mask pairs of the same rule; and the encoder (R61, R62, R67). -/

namespace Sys2Proof

/-- `v[hi:lo]` of spec/00_scope.md section 5.1, as the unsigned integer of `hi - lo + 1` bits. -/
def field (v : Word32) (hi lo : Nat) : Nat := v.toNat / 2 ^ lo % 2 ^ (hi - lo + 1)

/-- Why a word is ILLEGAL (R66): a reserved `OP`, or a bit that must be 0 for its `OP`. Both raise InvalidCommand
(R221). -/
inductive Illegal where
  | reservedOp (op : Nat)
  | reservedBits (op : Nat)
  deriving DecidableEq, Repr

/-- R65, the rows in the order they are tested. -/
def decode (w : Word32) : Except Illegal Instr :=
  let op := field w 3 0
  let alg := field w 7 4
  if op = 0xF then .ok (.clear (field w 31 4))
  else if op = 0x1 then if field w 31 8 = 0 then .ok (.hotp alg) else .error (.reservedBits op)
  else if op = 0x2 then if field w 31 8 = 0 then .ok (.totp alg) else .error (.reservedBits op)
  else if op = 0x3 then
    if field w 31 9 = 0 then .ok (.verify alg (field w 8 8 == 1)) else .error (.reservedBits op)
  else .error (.reservedOp op)

/-- One row of spec/opcode_table.json as a match/mask pair. -/
structure OpcodeRow where
  mask : Word32
  value : Word32
  deriving DecidableEq, Repr

/-- `w & mask = match` (R65). -/
def OpcodeRow.accepts (r : OpcodeRow) (w : Word32) : Bool := w &&& r.mask == r.value

def hotpRow : OpcodeRow := ⟨0xFFFFFF0F#32, 0x00000001#32⟩
def totpRow : OpcodeRow := ⟨0xFFFFFF0F#32, 0x00000002#32⟩
def verifyRow : OpcodeRow := ⟨0xFFFFFE0F#32, 0x00000003#32⟩
def clearRow : OpcodeRow := ⟨0x0000000F#32, 0x0000000F#32⟩

/-- The whole table (R65). -/
def opcodeRows : List OpcodeRow := [hotpRow, totpRow, verifyRow, clearRow]

/-- The `OP` value of a command (R62). -/
def Instr.opcode : Instr → Nat
  | .hotp _ => 0x1
  | .totp _ => 0x2
  | .verify _ _ => 0x3
  | .clear _ => 0xF

/-- The word of a well-formed command (R61, R67): `OP` in 3:0, `ALG` in 7:4, `TOLV` in bit 8, and for CLEAR its ignored
bits in 31:4. -/
def encode : Instr → Word32
  | .hotp alg => BitVec.ofNat 32 (0x1 + 2 ^ 4 * alg)
  | .totp alg => BitVec.ofNat 32 (0x2 + 2 ^ 4 * alg)
  | .verify alg tolv => BitVec.ofNat 32 (0x3 + 2 ^ 4 * alg + 2 ^ 8 * tolv.toNat)
  | .clear ign => BitVec.ofNat 32 (0xF + 2 ^ 4 * ign)

/-- The instruction the decoder reads from the opcode-table word `w` of `nbits` bits. A command is one 32-bit word,
transferred whole (R61, R45), so the table's numbering of bits is the register's; the bits above `nbits` are 0, and no
command is longer than 32 bits. -/
def decodeTableWord (nbits w : Nat) : Option Instr :=
  if nbits ≤ 32 then (decode (BitVec.ofNat 32 (w % 2 ^ nbits))).toOption else none

end Sys2Proof
end

