-- ==== Sys2Proof/Machine/State.lean ====
section
/-! DEFINITION. The state of one instance of the block as plain data (spec/10_state.md R10 to R28), the events of the
total order of accesses (R48), and the ways a step can stop. -/

namespace Sys2Proof.Machine

/-- `STATUS.PHASE` (R11). -/
inductive Phase where
  | idle
  | busy
  | done
  | error
  deriving DecidableEq, Repr

/-- The error codes 0 to 6 of R220; 7 to 15 are never produced. -/
inductive ErrCode where
  | noError
  | invalidAlgorithm
  | invalidKey
  | invalidCounter
  | invalidCode
  | invalidTolerance
  | invalidCommand
  deriving DecidableEq, Repr

/-- `STATUS.SITE`, the source's call-chain label (R12): the entry check of the command, or the codec inside the VERIFY
loop. -/
inductive Site where
  | entry
  | verifyLoop
  deriving DecidableEq, Repr

/-- The fields of `STATUS` (R12); bits 31:13 have no storage and read as 0. -/
structure Status where
  phase : Phase
  matched : Bool
  dropped : Bool
  err : ErrCode
  op : BitVec 4
  site : Site
  deriving DecidableEq, Repr

/-- `SNAP`, the operands of the call in progress (R23), one form per command that starts a call. -/
inductive Snap where
  | hotp (alg : Alg) (key : List Byte) (counter : Word64)
  | totp (alg : Alg) (key : List Byte) (counter : Word64)
  | verify (alg : Alg) (key : List Byte) (window : Word64) (tol : Word32) (plen : Word32) (pcode : BitVec 48)
  deriving DecidableEq, Repr

/-- `SNAP.op` (R23). -/
def Snap.op : Snap → BitVec 4
  | .hotp _ _ _ => 1#4
  | .totp _ _ _ => 2#4
  | .verify _ _ _ _ _ _ => 3#4

/-- The key buffer as a byte memory: `(address, byte)` cells, addresses strictly rising, no cell equal to what an
unlisted address reads as. -/
abbrev Memory := List Host.Cell

/-- What an unlisted byte of the key buffer reads as: the reset contents of R28. -/
def Memory.unlisted : Byte := 0#8

/-- One point of the total order of R48. The host's accesses carry the offset from `BASE` and the size in bytes, so that
an access the block refuses (R42) can be written down; `complete` is the block's turn (R210); `reset` is the platform's
(R260). -/
inductive BusEvent where
  | read (off size : Nat)
  | write (off size : Nat) (v : Word32)
  | complete
  | reset
  deriving DecidableEq, Repr

/-- What the bus answered the host's last access: nothing yet, a write taken, the data of a read, or the bus error of
R42. -/
inductive Reply where
  | none
  | written
  | data (v : Word32)
  | busError
  deriving DecidableEq, Repr

/-- What an aligned word of the window is (R41). -/
inductive Port where
  | cmd
  | status
  | errInfo
  | keyLen
  | counterLo
  | counterHi
  | timeLo
  | timeHi
  | tolerance
  | pcodeLen
  | pcode0
  | pcode1
  | codeVal
  | codeAscii0
  | codeAscii1
  | reserved (off : Nat)
  | key (w : Nat)
  deriving DecidableEq, Repr

/-- One instance of the block (R10) with the model's own fields `cfg` (the configuration of R6, written by nothing),
`bus` (the events still to come, the next one first) and `reply` (the answer to the host's last access). -/
structure State where
  cfg : Config
  status : Status
  errInfo : Word32
  keyLen : Word32
  counter : Word64
  time : Word64
  tolerance : Word32
  pcodeLen : Word32
  pcode : Word64
  codeVal : Word32
  codeAscii : Word64
  key : Memory
  snap : Option Snap
  bus : List BusEvent
  reply : Reply
  deriving DecidableEq, Repr

/-- The ways the machine stops. Neither is one of the block's errors (those are next states, R230), and neither is
reached by a run from reset; both are safe. -/
inductive Fault where
  /-- Raised by `Complete` if the truncation bound check of R161 failed: unreachable (R84), and "stuck if ever reached"
  (spec/93_implementation_defined.md U3). Safe: the machine stops. -/
  | truncationBound
  /-- Raised by `Complete` in a BUSY state that holds no `SNAP`, which R23 excludes. Safe: the machine stops. -/
  | noSnapshot
  deriving DecidableEq, Repr

/-- The ways an instruction is refused. -/
inductive Refusal where
  /-- Raised only by an arm of `exec` that has no meaning yet; no arm is left so. Safe: the machine stops. -/
  | notModelled (mnemonic : String)
  deriving DecidableEq, Repr

/-- `STATUS` after reset: all bits 0 (R28). -/
def Status.reset : Status := ⟨.idle, false, false, .noError, 0#4, .entry⟩

/-- The state after reset of an instance of any legal configuration (R28): every register 0, the key buffer zero,
`SNAP` absent, no access made and none to come. -/
def State.resetWith (cfg : Config) : State where
  cfg := cfg
  status := Status.reset
  errInfo := 0#32
  keyLen := 0#32
  counter := 0#64
  time := 0#64
  tolerance := 0#32
  pcodeLen := 0#32
  pcode := 0#64
  codeVal := 0#32
  codeAscii := 0#64
  key := []
  snap := none
  bus := []
  reply := .none

/-- The machine right after reset, at the default configuration (R6, R28). -/
def State.reset : State := State.resetWith Config.standard

end Sys2Proof.Machine
end

