-- ==== Sys2Proof/Machine/Bytes.lean ====
section
/-! DEFINITION. Byte sequences (spec/00_scope.md section 5.2), byte order (R45), and the halves of the 64-bit
registers (R15, R16, R18, R20). -/

namespace Sys2Proof.Machine

/-- `be(B)`: the first byte is the most significant. -/
def be (bs : List Byte) : Nat := bs.foldl (fun acc b => acc * 256 + b.toNat) 0

/-- `le(B)`: the first byte is the least significant. -/
def le : List Byte → Nat
  | [] => 0
  | b :: bs => b.toNat + 256 * le bs

/-- `tobe_n(v)`. -/
def tobe (n v : Nat) : List Byte := (List.range n).map fun j => BitVec.ofNat 8 (v / 2 ^ (8 * (n - 1 - j)))

/-- `tole_n(v)`. -/
def tole (n v : Nat) : List Byte := (List.range n).map fun j => BitVec.ofNat 8 (v / 2 ^ (8 * j))

/-- `A ^ B` on byte sequences of one length (R82). -/
def xorBytes (a b : List Byte) : List Byte := List.zipWith (· ^^^ ·) a b

/-- A sequence cut into its whole blocks of `n` bytes, first to last (R101). -/
def blocksOf (n : Nat) (bs : List Byte) : List (List Byte) :=
  (List.range (bs.length / n)).map fun i => (bs.drop (i * n)).take n

/-- Bits 31:0 of a 64-bit register. -/
def lowHalf (v : Word64) : Word32 := BitVec.ofNat 32 v.toNat

/-- Bits 63:32 of a 64-bit register. -/
def highHalf (v : Word64) : Word32 := BitVec.ofNat 32 (v.toNat / 2 ^ 32)

/-- The register whose halves are `lo` and `hi`: `hi * 2^32 + lo` (R15). -/
def joinHalves (lo hi : Word32) : Word64 := BitVec.ofNat 64 (lo.toNat + 2 ^ 32 * hi.toNat)

/-- A write of bits 31:0, the other half unchanged (R201). -/
def setLowHalf (v : Word64) (x : Word32) : Word64 := joinHalves x (highHalf v)

/-- A write of bits 63:32, the other half unchanged (R201). -/
def setHighHalf (v : Word64) (x : Word32) : Word64 := joinHalves (lowHalf v) x

/-- Byte `k` of a word in the byte lanes of R45 item 3: bits `8k+7 : 8k`. -/
def byteLane (v : Word32) (k : Nat) : Byte := BitVec.ofNat 8 (v.toNat / 2 ^ (8 * k))

end Sys2Proof.Machine
end

