-- ==== Sys2Proof/Machine/CounterCodec.lean ====
section
/-! DEFINITION. CounterCodec (spec/43_counter_codec.md): the counter as the 8-byte big-endian HMAC message. -/

namespace Sys2Proof.Machine

/-- `encode(counter)` (R150): all 64 bits, most significant byte first (R154). -/
def encodeCounter (counter : Word64) : List Byte := tobe 8 counter.toNat

/-- The codec on a candidate window, a mathematical integer that may be negative (R152): it fails exactly on a negative
one. -/
def codecWindow (cand : Int) : Option Word64 := if cand < 0 then none else some (BitVec.ofInt 64 cand)

end Sys2Proof.Machine
end

