-- ==== Sys2Proof/Machine/Flags.lean ====
section
/-! DEFINITION. `STATUS` (R12): the numbers of its fields, the word a read of it gives, and each change a rule makes to
it. The block has no arithmetic flag (R27). -/

namespace Sys2Proof.Machine

/-- The value of `STATUS[1:0]` (R11). -/
def Phase.code : Phase → Nat
  | .idle => 0
  | .busy => 1
  | .done => 2
  | .error => 3

/-- The value of `STATUS[7:4]` (R220). -/
def ErrCode.code : ErrCode → Nat
  | .noError => 0
  | .invalidAlgorithm => 1
  | .invalidKey => 2
  | .invalidCounter => 3
  | .invalidCode => 4
  | .invalidTolerance => 5
  | .invalidCommand => 6

/-- The value of `STATUS[12]` (R12). -/
def Site.code : Site → Nat
  | .entry => 0
  | .verifyLoop => 1

/-- The 32-bit word `STATUS` (R12): bits 31:13 are 0. -/
def Status.word (st : Status) : Word32 :=
  BitVec.ofNat 32 (st.phase.code + 2 ^ 2 * st.matched.toNat + 2 ^ 3 * st.dropped.toNat + 2 ^ 4 * st.err.code
    + 2 ^ 8 * st.op.toNat + 2 ^ 12 * st.site.code)

/-- A new call begins: the previous outcome is discarded and `OP` recorded; `DROPPED` and `PHASE` stay (R207). -/
def Status.begin (st : Status) (op : BitVec 4) : Status :=
  { st with matched := false, err := .noError, site := .entry, op := op }

/-- Error entry: `ERR`, `SITE`, `MATCH` 0, `PHASE` ERROR; `OP` and `DROPPED` stay (R230). -/
def Status.raise (st : Status) (e : ErrCode) (site : Site) : Status :=
  { st with err := e, site := site, matched := false, phase := .error }

/-- All entry checks passed (R207). -/
def Status.enterBusy (st : Status) : Status := { st with phase := .busy }

/-- A HOTP or TOTP call ended without error: `MATCH`, `ERR` and `SITE` are left as the call began them (R170). -/
def Status.finish (st : Status) : Status := { st with phase := .done }

/-- A VERIFY call ended without error; `MATCH` is its result (R180). -/
def Status.finishMatch (st : Status) (matched : Bool) : Status := { st with phase := .done, matched := matched }

/-- A write was ignored because the block was BUSY (R205). -/
def Status.drop (st : Status) : Status := { st with dropped := true }

end Sys2Proof.Machine
end

