-- ==== Sys2Proof/Machine/Operands.lean ====
section
/-! DEFINITION. The key buffer's bytes (R22) and the operands of the commands (R64): the algorithm code, the secret, the
current window, the effective tolerance, the presented code. -/

namespace Sys2Proof.Machine

/-- One byte of the key buffer. -/
def Memory.read (m : Memory) (a : Nat) : Byte := (m.lookup a).getD Memory.unlisted

/-- Writing one byte, keeping the canonical form: writing what an unlisted byte reads as removes the cell. -/
def Memory.write : Memory → Nat → Byte → Memory
  | [], a, b => if b = Memory.unlisted then [] else [(a, b)]
  | (k, v) :: m, a, b =>
    if a < k then (if b = Memory.unlisted then (k, v) :: m else (a, b) :: (k, v) :: m)
    else if a = k then (if b = Memory.unlisted then m else (a, b) :: m)
    else (k, v) :: Memory.write m a b

/-- A 32-bit write of key word `w` replaces all four bytes, the first in the low lane (R22, R201). -/
def Memory.writeWord (m : Memory) (w : Nat) (v : Word32) : Memory :=
  (((m.write (4 * w) (byteLane v 0)).write (4 * w + 1) (byteLane v 1)).write (4 * w + 2) (byteLane v 2)).write
    (4 * w + 3) (byteLane v 3)

/-- `KEY[0..n]`. -/
def Memory.slice (m : Memory) (n : Nat) : List Byte := (List.range n).map m.read

/-- The canonical form from address `lo` up, below `cap`: addresses strictly rising, no cell at the unlisted value. -/
def Memory.wfFrom : Nat → Nat → Memory → Bool
  | _, _, [] => true
  | lo, cap, (k, v) :: m => lo ≤ k && k < cap && v != Memory.unlisted && Memory.wfFrom (k + 1) cap m

/-- The canonical form of a key buffer of `cap` bytes. -/
def Memory.wf (cap : Nat) (m : Memory) : Bool := Memory.wfFrom 0 cap m

/-- The row an `ALG` code selects, if it is one of 0x1 to 0xB (R80, R81). -/
def resolve : Nat → Option Alg
  | 0x1 => some .sha1
  | 0x2 => some .sha224
  | 0x3 => some .sha256
  | 0x4 => some .sha384
  | 0x5 => some .sha512
  | 0x6 => some .sha512t224
  | 0x7 => some .sha512t256
  | 0x8 => some .sha3x224
  | 0x9 => some .sha3x256
  | 0xA => some .sha3x384
  | 0xB => some .sha3x512
  | _ => none

/-- The `ALG` code of a row of R80. -/
def algCode : Alg → Nat
  | .sha1 => 0x1
  | .sha224 => 0x2
  | .sha256 => 0x3
  | .sha384 => 0x4
  | .sha512 => 0x5
  | .sha512t224 => 0x6
  | .sha512t256 => 0x7
  | .sha3x224 => 0x8
  | .sha3x256 => 0x9
  | .sha3x384 => 0xA
  | .sha3x512 => 0xB

/-- The secret of a call, `KEY[0..KEY_LEN]` (R14). -/
def secret (s : State) : List Byte := s.key.slice s.keyLen.toNat

/-- `1 <= KEY_LEN <= KEY_MAX_BYTES` (R14, R223). -/
def keyLenLegal (s : State) : Bool := 1 ≤ s.keyLen.toNat && s.keyLen.toNat ≤ s.cfg.keyMaxBytes

/-- `currentWindow = floor(TIME / 30)`, an unsigned division (R181). -/
def currentWindow (s : State) : Word64 := BitVec.ofNat 64 (s.time.toNat / Config.stepSeconds)

/-- The tolerance of a VERIFY: the register if it is supplied, the default if not (R63, R182). -/
def effectiveTolerance (tolv : Bool) (s : State) : Word32 :=
  if tolv then s.tolerance else BitVec.ofNat 32 Config.tolDefault

/-- `PCODE[47:0]` (R18, R23). -/
def presentedCode (s : State) : BitVec 48 := BitVec.ofNat 48 s.pcode.toNat

end Sys2Proof.Machine
end

