-- ==== Sys2Proof/Machine/Sha2.lean ====
section
/-! DEFINITION. The SHA-1 and SHA-2 hash engines (spec/41_sha1_sha2.md R100 to R125), with the tables as literals
(R127). The two SHA-2 cores are one definition over a word width and its functions and constants. -/

namespace Sys2Proof.Machine

/-- `pad(M, blk, lenbytes)` (R101): 0x80, zeros, and the message length in bits, big-endian. -/
def mdPad (blk lenBytes : Nat) (msg : List Byte) : List Byte :=
  msg ++ 0x80#8 :: (List.replicate ((blk - (msg.length + 1 + lenBytes) % blk) % blk) 0#8
    ++ tobe lenBytes (8 * msg.length))

/-- The sixteen big-endian words of a block, `W[0..15]` (R101). -/
def blockWords (w : Nat) (block : List Byte) : List (BitVec w) :=
  (blocksOf (w / 8) block).map fun bs => BitVec.ofNat w (be bs)

/-- `n` more words of a message schedule. The list is kept newest first, so that its entry `k` is `W[t-1-k]`; `next`
gives `W[t]` from it. -/
def scheduleMore {w : Nat} (next : List (BitVec w) → BitVec w) : Nat → List (BitVec w) → List (BitVec w)
  | 0, newest => newest
  | n + 1, newest => scheduleMore next n (next newest :: newest)

/-- The schedule `W[0..16+n-1]` of a block, oldest first. -/
def schedule {w : Nat} (next : List (BitVec w) → BitVec w) (n : Nat) (block : List Byte) : List (BitVec w) :=
  (scheduleMore next n (blockWords w block).reverse).reverse

/-! ### SHA-1 -/

/-- The five words `h[0..4]`, and the working variables `a` to `e` (R100). -/
structure Sha1Regs where
  a : Word32
  b : Word32
  c : Word32
  d : Word32
  e : Word32
  deriving DecidableEq, Repr

/-- `f_t` (R102). -/
def sha1F (t : Nat) (b c d : Word32) : Word32 :=
  if t < 20 then (b &&& c) ^^^ (~~~b &&& d)
  else if t < 40 then b ^^^ c ^^^ d
  else if t < 60 then (b &&& c) ^^^ (b &&& d) ^^^ (c &&& d)
  else b ^^^ c ^^^ d

/-- `K_t` (R102). -/
def sha1K (t : Nat) : Word32 :=
  if t < 20 then 0x5A827999#32
  else if t < 40 then 0x6ED9EBA1#32
  else if t < 60 then 0x8F1BBCDC#32
  else 0xCA62C1D6#32

/-- `W[t]` of the SHA-1 schedule, `t >= 16` (R100). -/
def sha1Next (newest : List Word32) : Word32 :=
  (newest.getD 2 0 ^^^ newest.getD 7 0 ^^^ newest.getD 13 0 ^^^ newest.getD 15 0).rotateLeft 1

/-- Round `t` with its word `W[t]` (R100). -/
def sha1Round (r : Sha1Regs) (t : Nat) (wt : Word32) : Sha1Regs where
  a := r.a.rotateLeft 5 + sha1F t r.b r.c r.d + r.e + sha1K t + wt
  b := r.a
  c := r.b.rotateLeft 30
  d := r.c
  e := r.d

/-- One block (R100). -/
def sha1Block (h : Sha1Regs) (block : List Byte) : Sha1Regs :=
  let v := ((List.range 80).zip (schedule sha1Next 64 block)).foldl (fun r p => sha1Round r p.1 p.2) h
  ⟨h.a + v.a, h.b + v.b, h.c + v.c, h.d + v.d, h.e + v.e⟩

/-- The initial words of R100. -/
def sha1Init : Sha1Regs := ⟨0x67452301#32, 0xEFCDAB89#32, 0x98BADCFE#32, 0x10325476#32, 0xC3D2E1F0#32⟩

/-- The big-endian bytes of a list of words: the digest (R100, R111, R121). -/
def wordBytes {w : Nat} (ws : List (BitVec w)) : List Byte := ws.flatMap fun x => tobe (w / 8) x.toNat

/-- `SHA1(M)` (R100). -/
def sha1 (msg : List Byte) : List Byte :=
  let h := (blocksOf 64 (mdPad 64 8 msg)).foldl sha1Block sha1Init
  wordBytes [h.a, h.b, h.c, h.d, h.e]

/-! ### SHA-2 -/

/-- The eight words `h[0..7]`, and the working variables `a` to `hh` (R111, R121). -/
structure Sha2Regs (w : Nat) where
  a : BitVec w
  b : BitVec w
  c : BitVec w
  d : BitVec w
  e : BitVec w
  f : BitVec w
  g : BitVec w
  hh : BitVec w
  deriving DecidableEq, Repr

/-- What differs between the 32-bit and the 64-bit core: block and length-field size (R101), the four sigma functions
and the round constants (R112, R122). -/
structure Sha2Core (w : Nat) where
  blk : Nat
  lenBytes : Nat
  bsig0 : BitVec w → BitVec w
  bsig1 : BitVec w → BitVec w
  ssig0 : BitVec w → BitVec w
  ssig1 : BitVec w → BitVec w
  k : List (BitVec w)

/-- `Ch` (R112). -/
def shaCh {w : Nat} (x y z : BitVec w) : BitVec w := (x &&& y) ^^^ (~~~x &&& z)

/-- `Maj` (R112). -/
def shaMaj {w : Nat} (x y z : BitVec w) : BitVec w := (x &&& y) ^^^ (x &&& z) ^^^ (y &&& z)

/-- `W[t]` of a SHA-2 schedule, `t >= 16` (R111, R121). -/
def sha2Next {w : Nat} (p : Sha2Core w) (newest : List (BitVec w)) : BitVec w :=
  p.ssig1 (newest.getD 1 0) + newest.getD 6 0 + p.ssig0 (newest.getD 14 0) + newest.getD 15 0

/-- A round with its constant and its word (R111, R121). -/
def sha2Round {w : Nat} (p : Sha2Core w) (r : Sha2Regs w) (kt wt : BitVec w) : Sha2Regs w :=
  let t1 := r.hh + p.bsig1 r.e + shaCh r.e r.f r.g + kt + wt
  let t2 := p.bsig0 r.a + shaMaj r.a r.b r.c
  ⟨t1 + t2, r.a, r.b, r.c, r.d + t1, r.e, r.f, r.g⟩

/-- One block (R111, R121): as many rounds as the core has constants. -/
def sha2Block {w : Nat} (p : Sha2Core w) (h : Sha2Regs w) (block : List Byte) : Sha2Regs w :=
  let v := (p.k.zip (schedule (sha2Next p) (p.k.length - 16) block)).foldl (fun r q => sha2Round p r q.1 q.2) h
  ⟨h.a + v.a, h.b + v.b, h.c + v.c, h.d + v.d, h.e + v.e, h.f + v.f, h.g + v.g, h.hh + v.hh⟩

/-- `sha256_core(M, IV)` and `sha512_core(M, IV)` (R111, R121): all eight words, big-endian. -/
def sha2 {w : Nat} (p : Sha2Core w) (iv : Sha2Regs w) (msg : List Byte) : List Byte :=
  let h := (blocksOf p.blk (mdPad p.blk p.lenBytes msg)).foldl (sha2Block p) iv
  wordBytes [h.a, h.b, h.c, h.d, h.e, h.f, h.g, h.hh]

/-- `K256[0..63]` (R112). -/
def k256 : List Word32 :=
  [0x428a2f98#32, 0x71374491#32, 0xb5c0fbcf#32, 0xe9b5dba5#32, 0x3956c25b#32, 0x59f111f1#32, 0x923f82a4#32, 0xab1c5ed5#32,
   0xd807aa98#32, 0x12835b01#32, 0x243185be#32, 0x550c7dc3#32, 0x72be5d74#32, 0x80deb1fe#32, 0x9bdc06a7#32, 0xc19bf174#32,
   0xe49b69c1#32, 0xefbe4786#32, 0x0fc19dc6#32, 0x240ca1cc#32, 0x2de92c6f#32, 0x4a7484aa#32, 0x5cb0a9dc#32, 0x76f988da#32,
   0x983e5152#32, 0xa831c66d#32, 0xb00327c8#32, 0xbf597fc7#32, 0xc6e00bf3#32, 0xd5a79147#32, 0x06ca6351#32, 0x14292967#32] ++
  [0x27b70a85#32, 0x2e1b2138#32, 0x4d2c6dfc#32, 0x53380d13#32, 0x650a7354#32, 0x766a0abb#32, 0x81c2c92e#32, 0x92722c85#32,
   0xa2bfe8a1#32, 0xa81a664b#32, 0xc24b8b70#32, 0xc76c51a3#32, 0xd192e819#32, 0xd6990624#32, 0xf40e3585#32, 0x106aa070#32,
   0x19a4c116#32, 0x1e376c08#32, 0x2748774c#32, 0x34b0bcb5#32, 0x391c0cb3#32, 0x4ed8aa4a#32, 0x5b9cca4f#32, 0x682e6ff3#32,
   0x748f82ee#32, 0x78a5636f#32, 0x84c87814#32, 0x8cc70208#32, 0x90befffa#32, 0xa4506ceb#32, 0xbef9a3f7#32, 0xc67178f2#32]

/-- The functions of R112. -/
def sha256Core : Sha2Core 32 where
  blk := 64
  lenBytes := 8
  bsig0 x := x.rotateRight 2 ^^^ x.rotateRight 13 ^^^ x.rotateRight 22
  bsig1 x := x.rotateRight 6 ^^^ x.rotateRight 11 ^^^ x.rotateRight 25
  ssig0 x := x.rotateRight 7 ^^^ x.rotateRight 18 ^^^ (x >>> 3)
  ssig1 x := x.rotateRight 17 ^^^ x.rotateRight 19 ^^^ (x >>> 10)
  k := k256

/-- `K512[0..79]` (R122). -/
def k512 : List Word64 :=
  [0x428a2f98d728ae22#64, 0x7137449123ef65cd#64, 0xb5c0fbcfec4d3b2f#64, 0xe9b5dba58189dbbc#64,
   0x3956c25bf348b538#64, 0x59f111f1b605d019#64, 0x923f82a4af194f9b#64, 0xab1c5ed5da6d8118#64,
   0xd807aa98a3030242#64, 0x12835b0145706fbe#64, 0x243185be4ee4b28c#64, 0x550c7dc3d5ffb4e2#64,
   0x72be5d74f27b896f#64, 0x80deb1fe3b1696b1#64, 0x9bdc06a725c71235#64, 0xc19bf174cf692694#64,
   0xe49b69c19ef14ad2#64, 0xefbe4786384f25e3#64, 0x0fc19dc68b8cd5b5#64, 0x240ca1cc77ac9c65#64] ++
  [0x2de92c6f592b0275#64, 0x4a7484aa6ea6e483#64, 0x5cb0a9dcbd41fbd4#64, 0x76f988da831153b5#64,
   0x983e5152ee66dfab#64, 0xa831c66d2db43210#64, 0xb00327c898fb213f#64, 0xbf597fc7beef0ee4#64,
   0xc6e00bf33da88fc2#64, 0xd5a79147930aa725#64, 0x06ca6351e003826f#64, 0x142929670a0e6e70#64,
   0x27b70a8546d22ffc#64, 0x2e1b21385c26c926#64, 0x4d2c6dfc5ac42aed#64, 0x53380d139d95b3df#64,
   0x650a73548baf63de#64, 0x766a0abb3c77b2a8#64, 0x81c2c92e47edaee6#64, 0x92722c851482353b#64] ++
  [0xa2bfe8a14cf10364#64, 0xa81a664bbc423001#64, 0xc24b8b70d0f89791#64, 0xc76c51a30654be30#64,
   0xd192e819d6ef5218#64, 0xd69906245565a910#64, 0xf40e35855771202a#64, 0x106aa07032bbd1b8#64,
   0x19a4c116b8d2d0c8#64, 0x1e376c085141ab53#64, 0x2748774cdf8eeb99#64, 0x34b0bcb5e19b48a8#64,
   0x391c0cb3c5c95a63#64, 0x4ed8aa4ae3418acb#64, 0x5b9cca4f7763e373#64, 0x682e6ff3d6b2b8a3#64,
   0x748f82ee5defb2fc#64, 0x78a5636f43172f60#64, 0x84c87814a1f0ab72#64, 0x8cc702081a6439ec#64] ++
  [0x90befffa23631e28#64, 0xa4506cebde82bde9#64, 0xbef9a3f7b2c67915#64, 0xc67178f2e372532b#64,
   0xca273eceea26619c#64, 0xd186b8c721c0c207#64, 0xeada7dd6cde0eb1e#64, 0xf57d4f7fee6ed178#64,
   0x06f067aa72176fba#64, 0x0a637dc5a2c898a6#64, 0x113f9804bef90dae#64, 0x1b710b35131c471b#64,
   0x28db77f523047d84#64, 0x32caab7b40c72493#64, 0x3c9ebe0a15c9bebc#64, 0x431d67c49c100d4c#64,
   0x4cc5d4becb3e42b6#64, 0x597f299cfc657e2a#64, 0x5fcb6fab3ad6faec#64, 0x6c44198c4a475817#64]

/-- The functions of R122. -/
def sha512Core : Sha2Core 64 where
  blk := 128
  lenBytes := 16
  bsig0 x := x.rotateRight 28 ^^^ x.rotateRight 34 ^^^ x.rotateRight 39
  bsig1 x := x.rotateRight 14 ^^^ x.rotateRight 18 ^^^ x.rotateRight 41
  ssig0 x := x.rotateRight 1 ^^^ x.rotateRight 8 ^^^ (x >>> 7)
  ssig1 x := x.rotateRight 19 ^^^ x.rotateRight 61 ^^^ (x >>> 6)
  k := k512

/-- `IV256` (R110). -/
def iv256 : Sha2Regs 32 :=
  ⟨0x6a09e667#32, 0xbb67ae85#32, 0x3c6ef372#32, 0xa54ff53a#32, 0x510e527f#32, 0x9b05688c#32, 0x1f83d9ab#32, 0x5be0cd19#32⟩

/-- `IV224` (R113). -/
def iv224 : Sha2Regs 32 :=
  ⟨0xc1059ed8#32, 0x367cd507#32, 0x3070dd17#32, 0xf70e5939#32, 0xffc00b31#32, 0x68581511#32, 0x64f98fa7#32, 0xbefa4fa4#32⟩

/-- `IV512` (R120). -/
def iv512 : Sha2Regs 64 :=
  ⟨0x6a09e667f3bcc908#64, 0xbb67ae8584caa73b#64, 0x3c6ef372fe94f82b#64, 0xa54ff53a5f1d36f1#64,
   0x510e527fade682d1#64, 0x9b05688c2b3e6c1f#64, 0x1f83d9abfb41bd6b#64, 0x5be0cd19137e2179#64⟩

/-- `IV384` (R123). -/
def iv384 : Sha2Regs 64 :=
  ⟨0xcbbb9d5dc1059ed8#64, 0x629a292a367cd507#64, 0x9159015a3070dd17#64, 0x152fecd8f70e5939#64,
   0x67332667ffc00b31#64, 0x8eb44a8768581511#64, 0xdb0c2e0d64f98fa7#64, 0x47b5481dbefa4fa4#64⟩

/-- `IV512_224` (R124). -/
def iv512t224 : Sha2Regs 64 :=
  ⟨0x8c3d37c819544da2#64, 0x73e1996689dcd4d6#64, 0x1dfab7ae32ff9c82#64, 0x679dd514582f9fcf#64,
   0x0f6d2b697bd44da8#64, 0x77e36f7304c48942#64, 0x3f9d85a86a1d36c8#64, 0x1112e6ad91d692a1#64⟩

/-- `IV512_256` (R125). -/
def iv512t256 : Sha2Regs 64 :=
  ⟨0x22312194fc2bf72c#64, 0x9f555fa3c84c64c2#64, 0x2393b86b6f53b151#64, 0x963877195940eabd#64,
   0x96283ee2a88effe3#64, 0xbe5e1e2553863992#64, 0x2b0199fc2c85b8aa#64, 0x0eb72ddc81c52ca2#64⟩

/-- `SHA256(M)` (R110). -/
def sha256 (msg : List Byte) : List Byte := sha2 sha256Core iv256 msg

/-- `SHA224(M)`: the first 28 bytes (R113). -/
def sha224 (msg : List Byte) : List Byte := (sha2 sha256Core iv224 msg).take 28

/-- `SHA512(M)` (R120). -/
def sha512 (msg : List Byte) : List Byte := sha2 sha512Core iv512 msg

/-- `SHA384(M)`: the first 48 bytes (R123). -/
def sha384 (msg : List Byte) : List Byte := (sha2 sha512Core iv384 msg).take 48

/-- `SHA512_224(M)`: the first 28 bytes (R124). -/
def sha512t224 (msg : List Byte) : List Byte := (sha2 sha512Core iv512t224 msg).take 28

/-- `SHA512_256(M)`: the first 32 bytes (R125). -/
def sha512t256 (msg : List Byte) : List Byte := (sha2 sha512Core iv512t256 msg).take 32

end Sys2Proof.Machine
end

