-- ==== Sys2Proof/Machine/Sha3.lean ====
section
/-! DEFINITION. The SHA-3 hash engines (spec/42_sha3.md R130 to R138), with the tables as literals (R139). -/

namespace Sys2Proof.Machine

/-- The Keccak state: twenty-five lanes, lane `A[x][y]` at index `x + 5y` (R130). -/
abbrev Lanes := List Word64

/-- `A[x][y]`, the indices modulo 5 (R130). -/
def Lanes.at (a : Lanes) (x y : Nat) : Word64 := a.getD (x % 5 + 5 * (y % 5)) 0#64

/-- The state whose lane `A[x][y]` is `f x y`. -/
def Lanes.build (f : Nat → Nat → Word64) : Lanes := (List.range 25).map fun i => f (i % 5) (i / 5)

/-- Theta (R133). -/
def keccakTheta (a : Lanes) : Lanes :=
  let c := (List.range 5).map fun x => a.at x 0 ^^^ a.at x 1 ^^^ a.at x 2 ^^^ a.at x 3 ^^^ a.at x 4
  let d := (List.range 5).map fun x => c.getD ((x + 4) % 5) 0 ^^^ (c.getD ((x + 1) % 5) 0).rotateLeft 1
  Lanes.build fun x y => a.at x y ^^^ d.getD x 0

/-- `RHO[x][y]` (R134), one row of the list per `y`. -/
def keccakRho : List (List Nat) :=
  [[0, 1, 62, 28, 27], [36, 44, 6, 55, 20], [3, 10, 43, 25, 39], [41, 45, 15, 21, 8], [18, 2, 61, 56, 14]]

/-- The rotation of lane `A[x][y]`. -/
def rhoAt (x y : Nat) : Nat := (keccakRho.getD y []).getD x 0

/-- Rho and pi (R134): lane `A[x][y]`, rotated, goes to `B[y][(2x + 3y) mod 5]`. Read from the target `B[u][v]`, it
comes from `y = u` and `x = (u + 3v) mod 5`. -/
def keccakRhoPi (a : Lanes) : Lanes :=
  Lanes.build fun u v => (a.at ((u + 3 * v) % 5) u).rotateLeft (rhoAt ((u + 3 * v) % 5) u)

/-- Chi (R135). -/
def keccakChi (b : Lanes) : Lanes :=
  Lanes.build fun x y => b.at x y ^^^ (~~~(b.at (x + 1) y) &&& b.at (x + 2) y)

/-- `RC[0..23]` (R136). -/
def keccakRC : List Word64 :=
  [0x0000000000000001#64, 0x0000000000008082#64, 0x800000000000808a#64, 0x8000000080008000#64,
   0x000000000000808b#64, 0x0000000080000001#64, 0x8000000080008081#64, 0x8000000000008009#64,
   0x000000000000008a#64, 0x0000000000000088#64, 0x0000000080008009#64, 0x000000008000000a#64,
   0x000000008000808b#64, 0x800000000000008b#64, 0x8000000000008089#64, 0x8000000000008003#64,
   0x8000000000008002#64, 0x8000000000000080#64, 0x000000000000800a#64, 0x800000008000000a#64,
   0x8000000080008081#64, 0x8000000000008080#64, 0x0000000080000001#64, 0x8000000080008008#64]

/-- Iota with the round's constant (R136). -/
def keccakIota (rc : Word64) (a : Lanes) : Lanes :=
  Lanes.build fun x y => if x = 0 ∧ y = 0 then a.at 0 0 ^^^ rc else a.at x y

/-- `keccak_f(A)`: twenty-four rounds of theta, rho, pi, chi, iota (R138). -/
def keccakF (a : Lanes) : Lanes :=
  keccakRC.foldl (fun a rc => keccakIota rc (keccakChi (keccakRhoPi (keccakTheta a)))) a

/-- Absorbing an `r`-byte block (R131): its little-endian lanes are added into the first `r/8` lanes. -/
def keccakAbsorb (a : Lanes) (block : List Byte) : Lanes :=
  let ls := (blocksOf 8 block).map fun bs => BitVec.ofNat 64 (le bs)
  Lanes.build fun x y => a.at x y ^^^ ls.getD (x + 5 * y) 0

/-- The state as a 200-byte string (R131). -/
def laneBytes (a : Lanes) : List Byte := a.flatMap fun l => tole 8 l.toNat

/-- `pad3(M, r)` (R132). -/
def sha3Pad (r : Nat) (msg : List Byte) : List Byte :=
  let q := r - msg.length % r
  if q = 1 then msg ++ [0x86#8] else msg ++ 0x06#8 :: (List.replicate (q - 2) 0#8 ++ [0x80#8])

/-- `SHA3_n(M)` with rate `r` and output length `len`, both in bytes (R137). -/
def sha3 (r len : Nat) (msg : List Byte) : List Byte :=
  let a := (blocksOf r (sha3Pad r msg)).foldl (fun a block => keccakF (keccakAbsorb a block)) (List.replicate 25 0#64)
  (laneBytes a).take len

/-- SHA3-224 (R137). -/
def sha3x224 (msg : List Byte) : List Byte := sha3 144 28 msg

/-- SHA3-256 (R137). -/
def sha3x256 (msg : List Byte) : List Byte := sha3 136 32 msg

/-- SHA3-384 (R137). -/
def sha3x384 (msg : List Byte) : List Byte := sha3 104 48 msg

/-- SHA3-512 (R137). -/
def sha3x512 (msg : List Byte) : List Byte := sha3 72 64 msg

end Sys2Proof.Machine
end

