-- ==== Sys2Proof/Machine/HashProvider.lean ====
section
/-! DEFINITION. HashProvider (spec/40_hash_provider.md): the rows of the algorithm table (R80, R81) and the keyed-hash
function HMAC (R82, R83). -/

namespace Sys2Proof.Machine

/-- The hash function `H` of a row (R80). -/
def hashFn : Alg → List Byte → List Byte
  | .sha1 => sha1
  | .sha224 => sha224
  | .sha256 => sha256
  | .sha384 => sha384
  | .sha512 => sha512
  | .sha512t224 => sha512t224
  | .sha512t256 => sha512t256
  | .sha3x224 => sha3x224
  | .sha3x256 => sha3x256
  | .sha3x384 => sha3x384
  | .sha3x512 => sha3x512

/-- The block size `B` of a row, in bytes (R80). -/
def blockSize : Alg → Nat
  | .sha1 => 64
  | .sha224 => 64
  | .sha256 => 64
  | .sha384 => 128
  | .sha512 => 128
  | .sha512t224 => 128
  | .sha512t256 => 128
  | .sha3x224 => 144
  | .sha3x256 => 136
  | .sha3x384 => 104
  | .sha3x512 => 72

/-- The digest length `L` of a row, in bytes (R80). -/
def digestLen : Alg → Nat
  | .sha1 => 20
  | .sha224 => 28
  | .sha256 => 32
  | .sha384 => 48
  | .sha512 => 64
  | .sha512t224 => 28
  | .sha512t256 => 32
  | .sha3x224 => 28
  | .sha3x256 => 32
  | .sha3x384 => 48
  | .sha3x512 => 64

/-- `prepare_key(H, B, key)` (R83): hashed only if longer than a block, then zero-padded to a block. -/
def prepareKey (a : Alg) (key : List Byte) : List Byte :=
  let k := if blockSize a < key.length then hashFn a key else key
  k ++ List.replicate (blockSize a - k.length) 0#8

/-- The key block with a pad byte added to every byte: `K0 ^ rep(pad, B)` (R82). -/
def paddedKey (pad : Byte) (a : Alg) (key : List Byte) : List Byte :=
  xorBytes (prepareKey a key) (List.replicate (blockSize a) pad)

/-- `HMAC(alg, key, msg)` (R82). -/
def hmac (a : Alg) (key msg : List Byte) : List Byte :=
  hashFn a (paddedKey 0x5C#8 a key ++ hashFn a (paddedKey 0x36#8 a key ++ msg))

end Sys2Proof.Machine
end

