-- ==== Sys2Proof/Machine/Ops.lean ====
section
/-! DEFINITION. The shared operations of the block: the key erase (R25), error entry (R230), the beginning and the
entering of a call (R207), the two ways a call ends in DONE (R170, R180), CLEAR's effect (R211), the drop of a write
while BUSY (R205) and reset (R260). There is no return from an error to model (R232). -/

namespace Sys2Proof.Machine

/-- `wipe()` (R25): key, key length and snapshot gone; the other operand registers stay. -/
def wipe (s : State) : State := { s with key := [], keyLen := 0#32, snap := none }

/-- `raise E(info)` with its `SITE` (R230), the one error entry of the block. -/
def raise (e : ErrCode) (info : Word32) (site : Site) (s : State) : State :=
  { wipe s with
    status := s.status.raise e site
    errInfo := info
    codeVal := 0#32
    codeAscii := 0#64 }

/-- A new call begins: the previous outcome is discarded, `OP` is recorded (R207). -/
def beginCall (op : BitVec 4) (s : State) : State :=
  { s with status := s.status.begin op, errInfo := 0#32, codeVal := 0#32, codeAscii := 0#64 }

/-- All entry checks passed: `SNAP` is written and the phase is BUSY (R207, R23). -/
def enterBusy (snap : Snap) (s : State) : State :=
  { s with snap := some snap, status := s.status.enterBusy }

/-- `CODE_ASCII` of a six-character string: character `k` in bits `8k+7 : 8k` (R20, R170). -/
def packString (str : List Byte) : Word64 := BitVec.ofNat 64 (le str)

/-- A HOTP or TOTP call ends in DONE (R170): the key is wiped, the code published. -/
def publishCode (code : Nat) (str : List Byte) (s : State) : State :=
  { wipe s with
    codeVal := BitVec.ofNat 32 code
    codeAscii := packString str
    status := s.status.finish }

/-- A VERIFY call ends in DONE with its result (R180): the code registers are not written. -/
def publishMatch (matched : Bool) (s : State) : State :=
  { wipe s with status := s.status.finishMatch matched }

/-- `clear()` (R211). -/
def clear (s : State) : State :=
  { wipe s with status := Status.reset, errInfo := 0#32, codeVal := 0#32, codeAscii := 0#64 }

/-- A write while BUSY is discarded and recorded; nothing else changes (R205). -/
def dropWrite (s : State) : State := { s with status := s.status.drop }

/-- A command other than CLEAR is accepted in every phase but BUSY, where it is dropped (R205, R208). -/
def whenAccepted (call : State → State) (s : State) : Host.Outcome State Fault Refusal :=
  if s.status.phase = .busy then .next (dropWrite s) else .next (call s)

/-- The entry checks HOTP, TOTP and VERIFY share, in the order of R226, with the command's own third check `bad` and
its snapshot: the first failing check wins, and if none fails the call is BUSY. -/
def enterCall (op : BitVec 4) (alg : Nat) (bad : Option (ErrCode × Word32)) (snapOf : Alg → Snap) (s : State) : State :=
  match resolve alg with
  | none => raise .invalidAlgorithm (BitVec.ofNat 32 alg) .entry (beginCall op s)
  | some a =>
    if keyLenLegal s then
      match bad with
      | some (e, info) => raise e info .entry (beginCall op s)
      | none => enterBusy (snapOf a) (beginCall op s)
    else raise .invalidKey s.keyLen .entry (beginCall op s)

/-- Reset in any phase (R260, R261): every piece of the block's state at its value of R28. The events still to come and
the configuration are not the block's. -/
def resetBlock (s : State) : State := { State.resetWith s.cfg with bus := s.bus }

end Sys2Proof.Machine
end

