-- ==== Sys2Proof/Machine/OtpEngine.lean ====
section
/-! DEFINITION. OTPEngine (spec/44_otp_engine.md): the code function with its truncation, reduction and formatting
(R160 to R166), and the commands HOTP and TOTP (R170, R171), their effect at the `CMD` write and at `Complete`. -/

namespace Sys2Proof.Machine

/-- `trunc_offset(hash)` (R161): the low nibble of the last byte, with the defensive bound check. A failed check has no
behaviour: `none`. -/
def truncOffset (hash : List Byte) : Option Nat :=
  match hash.getLast? with
  | none => none
  | some b =>
    let offset := b.toNat % 16
    if offset + 4 ≤ hash.length then some offset else none

/-- `trunc_value(hash, offset)` (R162): four bytes, big-endian, the top bit of the first one masked. -/
def truncValue (hash : List Byte) (offset : Nat) : Nat :=
  (hash.getD offset 0 &&& 0x7F#8).toNat * 2 ^ 24 + (hash.getD (offset + 1) 0).toNat * 2 ^ 16
    + (hash.getD (offset + 2) 0).toNat * 2 ^ 8 + (hash.getD (offset + 3) 0).toNat

/-- `format6(code)` (R164): six ASCII digits, the most significant first. -/
def format6 (code : Nat) : List Byte :=
  (List.range Config.digits).map fun k => BitVec.ofNat 8 (0x30 + code / 10 ^ (5 - k) % 10)

/-- The code of a digest: truncation, reduction (R163), formatting. -/
def codeOfDigest (hash : List Byte) : Option (Nat × List Byte) :=
  match truncOffset hash with
  | none => none
  | some offset =>
    let code := truncValue hash offset % Config.modulus
    some (code, format6 code)

/-- `hotpCode(alg, key, counter)` (R160). -/
def hotpCode (a : Alg) (key : List Byte) (counter : Word64) : Option (Nat × List Byte) :=
  codeOfDigest (hmac a key (encodeCounter counter))

/-- `totpCode(alg, key, windowCounter)` (R166). -/
def totpCode (a : Alg) (key : List Byte) (windowCounter : Word64) : Option (Nat × List Byte) :=
  hotpCode a key windowCounter

/-- Check 3 of HOTP and TOTP: `COUNTER != 0`, else InvalidCounter with the low word of the counter (R170, R224). -/
def zeroCounter (s : State) : Option (ErrCode × Word32) :=
  if s.counter = 0#64 then some (.invalidCounter, lowHalf s.counter) else none

/-- `HOTP alg` at the `CMD` write (R170). -/
def execHotp (alg : Nat) (s : State) : Host.Outcome State Fault Refusal :=
  whenAccepted (fun s => enterCall 1#4 alg (zeroCounter s) (fun a => .hotp a (secret s) s.counter) s) s

/-- `TOTP alg` at the `CMD` write (R171). -/
def execTotp (alg : Nat) (s : State) : Host.Outcome State Fault Refusal :=
  whenAccepted (fun s => enterCall 2#4 alg (zeroCounter s) (fun a => .totp a (secret s) s.counter) s) s

/-- The end of a call whose result is a code (R170 "at Complete"). -/
def completeCode (result : Option (Nat × List Byte)) (s : State) : Host.Outcome State Fault Refusal :=
  match result with
  | none => .fault .truncationBound
  | some (code, str) => .next (publishCode code str s)

end Sys2Proof.Machine
end

