-- ==== Sys2Proof/Machine/WindowVerifier.lean ====
section
/-! DEFINITION. WindowVerifier (spec/45_window_verifier.md): the comparison and the window loop (R183 to R187), and the
command VERIFY (R180), its effect at the `CMD` write and at `Complete`. -/

namespace Sys2Proof.Machine

/-- `equal(plen, pcode, str)` (R185): length 6 and six equal characters. -/
def codeEqual (plen : Word32) (pcode : BitVec 48) (str : List Byte) : Bool :=
  plen == 6#32 && (List.range 6).all fun k => pcode.extractLsb' (8 * k) 8 == str.getD k 0

/-- What the window loop returns (R183), and `noCode` where a candidate has no code, which R84 excludes. -/
inductive Verdict where
  | hit
  | miss
  | under (i : Nat)
  | noCode
  deriving DecidableEq, Repr

/-- The loop of R183 from candidate `i` on, with `left` candidates still to try. -/
def verifyFrom (a : Alg) (key : List Byte) (window : Word64) (plen : Word32) (pcode : BitVec 48) :
    Nat → Nat → Verdict
  | 0, _ => .miss
  | left + 1, i =>
    match codecWindow ((window.toNat : Int) - i) with
    | none => .under i
    | some cand =>
      match totpCode a key cand with
      | none => .noCode
      | some (_, str) => if codeEqual plen pcode str then .hit else verifyFrom a key window plen pcode left (i + 1)

/-- `verify_loop(S)` (R183): `tol + 1` candidates, the current window first. -/
def verifyLoop (a : Alg) (key : List Byte) (window : Word64) (tol plen : Word32) (pcode : BitVec 48) : Verdict :=
  verifyFrom a key window plen pcode (tol.toNat + 1) 0

/-- Check 3 of VERIFY: `PCODE_LEN != 0`, else InvalidCode (R180, R225). -/
def emptyCode (s : State) : Option (ErrCode × Word32) :=
  if s.pcodeLen = 0#32 then some (.invalidCode, s.pcodeLen) else none

/-- `VERIFY alg` and `VERIFY alg, tol` at the `CMD` write (R180). No tolerance is refused (R182). -/
def execVerify (alg : Nat) (tolv : Bool) (s : State) : Host.Outcome State Fault Refusal :=
  whenAccepted (fun s => enterCall 3#4 alg (emptyCode s)
    (fun a => .verify a (secret s) (currentWindow s) (effectiveTolerance tolv s) s.pcodeLen (presentedCode s)) s) s

/-- The end of a VERIFY call (R180 "at Complete"): a match, no match, or a candidate below window 0 (R184). -/
def completeVerdict (verdict : Verdict) (s : State) : Host.Outcome State Fault Refusal :=
  match verdict with
  | .hit => .next (publishMatch true s)
  | .miss => .next (publishMatch false s)
  | .under i => .next (raise .invalidCounter (BitVec.ofNat 32 i) .verifyLoop s)
  | .noCode => .fault .truncationBound

end Sys2Proof.Machine
end

