-- ==== Sys2Proof/Machine/Control.lean ====
section
/-! DEFINITION. The call sequencer (spec/46_control.md): the command CLEAR (R211), an ILLEGAL word (R207, R221), and
the block's own step `Complete` (R210). -/

namespace Sys2Proof.Machine

/-- `CLEAR` (R211): accepted in every phase, BUSY included; bits 31:4 of its word are ignored. -/
def execClear (_ign : Nat) (s : State) : Host.Outcome State Fault Refusal := .next (clear s)

/-- A word that decodes to ILLEGAL (R207, R221): InvalidCommand with the word, or dropped while BUSY (R205). -/
def illegalCommand (w : Word32) (s : State) : Host.Outcome State Fault Refusal :=
  whenAccepted (fun s => raise .invalidCommand w .entry (beginCall (BitVec.ofNat 4 w.toNat) s)) s

/-- The result of a call as a function of `SNAP` alone (R210). -/
def completeCall (snap : Snap) (s : State) : Host.Outcome State Fault Refusal :=
  match snap with
  | .hotp a key counter => completeCode (hotpCode a key counter) s
  | .totp a key counter => completeCode (totpCode a key counter) s
  | .verify a key window tol plen pcode => completeVerdict (verifyLoop a key window tol plen pcode) s

/-- `Complete` (R210). It is enabled exactly when the phase is BUSY; elsewhere the block has no step of its own and the
state stays. -/
def complete (s : State) : Host.Outcome State Fault Refusal :=
  if s.status.phase = .busy then
    match s.snap with
    | none => .fault .noSnapshot
    | some snap => completeCall snap s
  else .next s

end Sys2Proof.Machine
end

