-- ==== Sys2Proof/Machine/Window.lean ====
section
/-! DEFINITION. The register window (spec/20_memory.md, spec/46_control.md R200, R201, R205): the address map, reads,
writes, the refused accesses, and the next event of the total order of R48. -/

namespace Sys2Proof.Machine

/-- The map of R41 at an offset of the window. -/
def portAt (off : Nat) : Port :=
  if 0x100 ≤ off then .key ((off - 0x100) / 4)
  else
    match off with
    | 0x00 => .cmd
    | 0x04 => .status
    | 0x08 => .errInfo
    | 0x0C => .keyLen
    | 0x10 => .counterLo
    | 0x14 => .counterHi
    | 0x18 => .timeLo
    | 0x1C => .timeHi
    | 0x20 => .tolerance
    | 0x24 => .pcodeLen
    | 0x28 => .pcode0
    | 0x2C => .pcode1
    | 0x30 => .codeVal
    | 0x34 => .codeAscii0
    | 0x38 => .codeAscii1
    | _ => .reserved off

/-- The port an access reaches: an aligned 32-bit access inside the window, and no other (R42). -/
def portOf (cfg : Config) (off size : Nat) : Option Port :=
  if size = 4 ∧ off % 4 = 0 ∧ off < 0x100 + cfg.keyMaxBytes then some (portAt off) else none

/-- `RegRead` (R200), in any phase. -/
def regRead (p : Port) (s : State) : Word32 :=
  match p with
  | .cmd => 0#32
  | .status => s.status.word
  | .errInfo => s.errInfo
  | .keyLen => s.keyLen
  | .counterLo => lowHalf s.counter
  | .counterHi => highHalf s.counter
  | .timeLo => lowHalf s.time
  | .timeHi => highHalf s.time
  | .tolerance => s.tolerance
  | .pcodeLen => s.pcodeLen
  | .pcode0 => lowHalf s.pcode
  | .pcode1 => highHalf s.pcode
  | .codeVal => s.codeVal
  | .codeAscii0 => lowHalf s.codeAscii
  | .codeAscii1 => highHalf s.codeAscii
  | .reserved _ => 0#32
  | .key _ => 0#32

/-- The operand writes of `RegWrite` when the block is not BUSY (R201); read-only and reserved words ignore the write
(R44). The word of `CMD` is not stored (R21): its effect is the command's. -/
def storePort (p : Port) (v : Word32) (s : State) : State :=
  match p with
  | .cmd => s
  | .status => s
  | .errInfo => s
  | .keyLen => { s with keyLen := v }
  | .counterLo => { s with counter := setLowHalf s.counter v }
  | .counterHi => { s with counter := setHighHalf s.counter v }
  | .timeLo => { s with time := setLowHalf s.time v }
  | .timeHi => { s with time := setHighHalf s.time v }
  | .tolerance => { s with tolerance := v }
  | .pcodeLen => { s with pcodeLen := v }
  | .pcode0 => { s with pcode := setLowHalf s.pcode v }
  | .pcode1 => { s with pcode := setHighHalf s.pcode v }
  | .codeVal => s
  | .codeAscii0 => s
  | .codeAscii1 => s
  | .reserved _ => s
  | .key w => { s with key := s.key.writeWord w v }

/-- `RegWrite` of a word other than `CMD` (R201, R205). -/
def regWrite (p : Port) (v : Word32) (s : State) : Host.Outcome State Fault Refusal := whenAccepted (storePort p v) s

/-- The next event is taken from the total order (R48). -/
def popEvent (rest : List BusEvent) (s : State) : State := { s with bus := rest }

/-- The bus answers the host's access. -/
def answer (r : Reply) (s : State) : State := { s with reply := r }

/-- What the next point of the total order asks for: a word written to `CMD`, to be decoded and run in the given state,
or something that is no command, with its outcome. -/
inductive Fetched where
  | command (w : Word32) (s : State)
  | other (o : Host.Outcome State Fault Refusal)

/-- A host read of an offset (R200), or the refusal of the access (R42). -/
def hostRead (off size : Nat) (s : State) : State :=
  match portOf s.cfg off size with
  | none => answer .busError s
  | some p => answer (.data (regRead p s)) s

/-- A host write of an offset (R201, R205), or the refusal of the access (R42). -/
def hostWrite (off size : Nat) (v : Word32) (s : State) : Fetched :=
  match portOf s.cfg off size with
  | none => .other (.next (answer .busError s))
  | some .cmd => .command v (answer .written s)
  | some p => .other (regWrite p v (answer .written s))

/-- The next point of the total order (R48). When no event is left it is the block's turn, so that a call always ends
(R210). -/
def fetch (s : State) : Fetched :=
  match s.bus with
  | [] => .other (complete s)
  | .complete :: rest => .other (complete (popEvent rest s))
  | .reset :: rest => .other (.next (resetBlock (popEvent rest s)))
  | .read off size :: rest => .other (.next (hostRead off size (popEvent rest s)))
  | .write off size v :: rest => hostWrite off size v (popEvent rest s)

end Sys2Proof.Machine
end

