-- ==== Sys2Proof/Machine/Dispatch.lean ====
section
/-! DEFINITION. The one match from commands to their meanings (R60). -/

namespace Sys2Proof.Machine

def exec (i : Instr) (s : State) : Host.Outcome State Fault Refusal :=
  match i with
  | .hotp alg => Sys2Proof.Machine.execHotp alg s
  | .totp alg => Sys2Proof.Machine.execTotp alg s
  | .verify alg tolv => Sys2Proof.Machine.execVerify alg tolv s
  | .clear ign => Sys2Proof.Machine.execClear ign s

end Sys2Proof.Machine
end

