-- ==== Sys2Proof/Machine/Step.lean ====
section
/-! DEFINITION. One step of the machine: the next point of the total order of R48; a word written to `CMD` is decoded
(R65) and its command run (R207). -/

namespace Sys2Proof.Machine

def step (s : State) : Host.Outcome State Fault Refusal :=
  match fetch s with
  | .other o => o
  | .command w s' =>
    match decode w with
    | .ok i => exec i s'
    | .error _ => illegalCommand w s'

/-- `s` with the host's write of the table word `w` to `CMD` as the next event: where this machine takes its next
command from (R51, R61). -/
def State.withFetchWord (s : State) (nbits w : Nat) : State :=
  { s with bus := .write 0x00 4 (BitVec.ofNat 32 (w % 2 ^ nbits)) :: s.bus }

end Sys2Proof.Machine
end

