-- ==== Sys2Proof/Machine/HostSequence.lean ====
section
/-! DEFINITION. The host's notation (R67) and the pseudo-instructions `hotp`, `totp` and `totpValidate` (R68) as lists
of events of the total order. -/

namespace Sys2Proof.Machine

/-- `word(key, w) = le(key[4w..4w+4])`, missing bytes taken as 0 (R68). -/
def keyWord (key : List Byte) (w : Nat) : Word32 := BitVec.ofNat 32 (le ((key.drop (4 * w)).take 4))

/-- `wr KEY[w], word(key, w)` for `w` in `0 ..= ceil(n/4)-1`, then `wr KEY_LEN, n` (R68). -/
def loadKey (key : List Byte) : List BusEvent :=
  (List.range ((key.length + 3) / 4)).map (fun w => BusEvent.write (0x100 + 4 * w) 4 (keyWord key w))
    ++ [.write 0x0C 4 (BitVec.ofNat 32 key.length)]

/-- A command in the notation of R67: `wr CMD` of its word. -/
def issue (i : Instr) : BusEvent := .write 0x00 4 (encode i)

/-- `wait` (R67): reads of `STATUS` until it is not BUSY. `polls` of them come before the block's `Complete` in the
total order, one after. -/
def waitDone (polls : Nat) : List BusEvent := List.replicate polls (.read 0x04 4) ++ [.complete, .read 0x04 4]

/-- The sequence `hotp(alg, key, counter)` up to its result reads (R68). -/
def hotpSequence (a : Alg) (key : List Byte) (counter : Word64) (polls : Nat) : List BusEvent :=
  loadKey key ++ [.write 0x10 4 (lowHalf counter), .write 0x14 4 (highHalf counter), issue (.hotp (algCode a))]
    ++ waitDone polls

/-- The sequence `totp(alg, secret, windowCounter)` on the raw secret bytes (R68). -/
def totpSequence (a : Alg) (key : List Byte) (windowCounter : Word64) (polls : Nat) : List BusEvent :=
  loadKey key ++ [.write 0x10 4 (lowHalf windowCounter), .write 0x14 4 (highHalf windowCounter),
    issue (.totp (algCode a))] ++ waitDone polls

/-- The sequence `totpValidate(alg, secret, code, tolerance?)` on the raw secret bytes at the host's time `now`
(R68). -/
def totpValidateSequence (a : Alg) (key : List Byte) (code : List Byte) (tolerance : Option Word32) (now : Word64)
    (polls : Nat) : List BusEvent :=
  loadKey key ++ [.write 0x18 4 (lowHalf now), .write 0x1C 4 (highHalf now),
    .write 0x24 4 (BitVec.ofNat 32 code.length), .write 0x28 4 (BitVec.ofNat 32 (le (code.take 4))),
    .write 0x2C 4 (BitVec.ofNat 32 (le ((code.drop 4).take 2)))]
    ++ (match tolerance with
      | some t => [.write 0x20 4 t, issue (.verify (algCode a) true)]
      | none => [issue (.verify (algCode a) false)])
    ++ waitDone polls

/-- The result reads of `hotp` and `totp` after DONE (R68). -/
def readCode : List BusEvent := [.read 0x34 4, .read 0x38 4]

/-- The read of the error value after ERROR (R68). -/
def readError : List BusEvent := [.read 0x08 4]

end Sys2Proof.Machine
end

