-- ==== Sys2Proof/Safety.lean ====
section
/-! DEFINITION. What holds of every state a run can be in: the rules of spec/10_state.md that relate the fields of the
state to one another. -/

namespace Sys2Proof.Machine

/-- `k` steps, stopping at the first fault or refusal. -/
def runSteps : Nat → State → Host.Outcome State Fault Refusal
  | 0, s => .next s
  | k + 1, s =>
    match step s with
    | .next t => runSteps k t
    | .fault r => .fault r
    | .refused r => .refused r

/-- `SNAP` always equals the register contents while BUSY (R23), its command is `STATUS.OP`, and its operands passed the
entry checks (R170, R171, R180). -/
def Snap.Agrees (s : State) : Snap → Prop
  | .hotp _ key counter => s.status.op = 1#4 ∧ key = secret s ∧ counter = s.counter ∧ s.counter ≠ 0#64
  | .totp _ key counter => s.status.op = 2#4 ∧ key = secret s ∧ counter = s.counter ∧ s.counter ≠ 0#64
  | .verify _ key window tol plen pcode => s.status.op = 3#4 ∧ key = secret s ∧ window = currentWindow s ∧
      (tol = effectiveTolerance true s ∨ tol = effectiveTolerance false s) ∧ plen = s.pcodeLen ∧
      s.pcodeLen ≠ 0#32 ∧ pcode = presentedCode s

/-- What R19 and R20 say of the result registers: a code and its string after a HOTP or TOTP call that ended in DONE,
zero in every other situation. -/
def State.ResultOk (s : State) : Prop :=
  if s.status.phase = .done ∧ (s.status.op = 1#4 ∨ s.status.op = 2#4) then
    s.codeVal.toNat < Config.modulus ∧ s.codeAscii = packString (format6 s.codeVal.toNat)
  else s.codeVal = 0#32 ∧ s.codeAscii = 0#64

/-- What holds of every state a run can be in. -/
structure State.Inv (s : State) : Prop where
  /-- the key buffer keeps its canonical form -/
  keyWf : s.key.wf s.cfg.keyMaxBytes = true
  /-- `SNAP` exists only while BUSY (R23) -/
  snapOnlyBusy : s.status.phase ≠ .busy → s.snap = none
  /-- while BUSY there is a `SNAP` and it equals the registers (R23) -/
  snapAgrees : s.status.phase = .busy → ∃ snap, s.snap = some snap ∧ snap.Agrees s ∧ keyLenLegal s = true
  /-- `ERR` is 0 exactly when the phase is not ERROR (R12) -/
  errIffError : s.status.err = .noError ↔ s.status.phase ≠ .error
  /-- InvalidTolerance is never raised (R227) -/
  neverTolerance : s.status.err ≠ .invalidTolerance
  /-- `SITE` is 1 only for InvalidCounter inside VERIFY (R220) -/
  siteOnlyVerify : s.status.site = .verifyLoop → s.status.err = .invalidCounter ∧ s.status.op = 3#4
  /-- `ERR_INFO` is 0 except in ERROR (R13) -/
  errInfoZero : s.status.phase ≠ .error → s.errInfo = 0#32
  /-- `MATCH` is 1 only after a VERIFY that ended in DONE (R12) -/
  matchOnlyVerify : s.status.matched = true → s.status.phase = .done ∧ s.status.op = 3#4
  /-- DONE is reached only by a call of HOTP, TOTP or VERIFY (R209) -/
  doneOp : s.status.phase = .done → s.status.op = 1#4 ∨ s.status.op = 2#4 ∨ s.status.op = 3#4
  /-- IDLE is reached only by reset and CLEAR, which leave `STATUS` 0 (R28, R209, R211) -/
  idleStatus : s.status.phase = .idle → s.status = Status.reset
  /-- the result registers (R19, R20) -/
  resultOk : s.ResultOk

/-- The secret is gone: what `wipe()` leaves (R25). -/
def State.Wiped (s : State) : Prop := (∀ k, s.key.read k = 0#8) ∧ s.keyLen = 0#32 ∧ s.snap = none

/-- Two states show the host the same outcome of a call: `STATUS` but for the sticky `DROPPED`, `ERR_INFO`, and the
result registers. -/
def State.SameOutcome (s s' : State) : Prop :=
  { s.status with dropped := false } = { s'.status with dropped := false } ∧ s.errInfo = s'.errInfo ∧
    s.codeVal = s'.codeVal ∧ s.codeAscii = s'.codeAscii

/-- No event of the schedule writes `CMD`. -/
def State.NoCommandComing (s : State) : Prop := ∀ off size v, BusEvent.write off size v ∈ s.bus → off ≠ 0x00

end Sys2Proof.Machine

namespace Sys2Proof

open Machine

/-- The entry checks of a command all pass (R226); CLEAR has none. -/
def Instr.ChecksPass (s : State) : Instr → Prop
  | .hotp alg => (resolve alg).isSome ∧ keyLenLegal s = true ∧ s.counter ≠ 0#64
  | .totp alg => (resolve alg).isSome ∧ keyLenLegal s = true ∧ s.counter ≠ 0#64
  | .verify alg _ => (resolve alg).isSome ∧ keyLenLegal s = true ∧ s.pcodeLen ≠ 0#32
  | .clear _ => True

/-- Two states hold the same operands of a command (R64): the fields of the word are the command's own, the rest is in
registers. What is not named here the command does not read (U9 to U11). -/
def Instr.SameOperands (s s' : State) : Instr → Prop
  | .hotp _ => s.keyLen = s'.keyLen ∧ secret s = secret s' ∧ s.counter = s'.counter
  | .totp _ => s.keyLen = s'.keyLen ∧ secret s = secret s' ∧ s.counter = s'.counter
  | .verify _ tolv => s.keyLen = s'.keyLen ∧ secret s = secret s' ∧ s.time = s'.time ∧
      (tolv = true → s.tolerance = s'.tolerance) ∧ s.pcodeLen = s'.pcodeLen ∧ presentedCode s = presentedCode s'
  | .clear _ => True

end Sys2Proof
end

