-- ==== Sys2Proof/Certificates/Slice0/Obligations.lean ====
section
/-! DEFINITION. The statements for the provers, in the order of the spec's files, and after them those added beside
them. `bus` and `reply` are the model's own fields (notes/assumptions/1.md and 4.md), and so is the configuration `cfg`
(notes/assumptions/5.md); every other field is the spec's. -/

open Sys2Proof Sys2Proof.Machine

/-! ### state and reset (spec/10_state.md, spec/70_reset_and_hazards.md) -/

/-- R28: after reset every register is 0, every key byte is 0, the phase is IDLE and `SNAP` is absent. -/
def Obligations.ResetLeavesEveryRegisterZero : Prop :=
  ∀ cfg : Config,
    (State.resetWith cfg).status.word = 0#32 ∧ (State.resetWith cfg).status.phase = .idle ∧
    (State.resetWith cfg).errInfo = 0#32 ∧ (State.resetWith cfg).keyLen = 0#32 ∧
    (State.resetWith cfg).counter = 0#64 ∧ (State.resetWith cfg).time = 0#64 ∧
    (State.resetWith cfg).tolerance = 0#32 ∧ (State.resetWith cfg).pcodeLen = 0#32 ∧
    (State.resetWith cfg).pcode = 0#64 ∧ (State.resetWith cfg).codeVal = 0#32 ∧
    (State.resetWith cfg).codeAscii = 0#64 ∧ (∀ k, (State.resetWith cfg).key.read k = 0#8) ∧
    (State.resetWith cfg).snap = none

/-- R260, R261: reset in any phase puts every piece of the block's state at its reset value. The configuration and the
events still to come are not the block's (notes/assumptions/11.md). -/
def Obligations.ResetInAnyPhaseGivesTheResetState : Prop :=
  ∀ (s : State) (rest : List BusEvent), s.bus = .reset :: rest →
    step s = .next { State.resetWith s.cfg with bus := rest }

/-- The fields of `STATUS` stand where the table of spec/10_state.md (R12) places them and bits 31:13 read as 0; the
phases have the numbers of R11, the error codes those of spec/60_exceptions.md (R220), and `SITE` is 0 at the entry check
and 1 inside the VERIFY loop. -/
def Obligations.StatusFieldsStandWhereTheRulePlacesThem : Prop :=
  ∀ st : Status,
    (field st.word 1 0 = match st.phase with
      | .idle => 0
      | .busy => 1
      | .done => 2
      | .error => 3) ∧
    field st.word 2 2 = (if st.matched then 1 else 0) ∧ field st.word 3 3 = (if st.dropped then 1 else 0) ∧
    (field st.word 7 4 = match st.err with
      | .noError => 0
      | .invalidAlgorithm => 1
      | .invalidKey => 2
      | .invalidCounter => 3
      | .invalidCode => 4
      | .invalidTolerance => 5
      | .invalidCommand => 6) ∧
    field st.word 11 8 = st.op.toNat ∧
    (field st.word 12 12 = match st.site with
      | .entry => 0
      | .verifyLoop => 1) ∧
    field st.word 31 13 = 0

/-- R25: whatever way a call ends, and on CLEAR, the key, its length and the snapshot are gone, and `COUNTER`, `TIME`,
`TOLERANCE`, `PCODE_LEN` and `PCODE` stay. A command leaves the secret in place only where it is BUSY afterwards. -/
def Obligations.SecretIsErasedWheneverACallEnds : Prop :=
  let wiped (s t : State) : Prop := t.Wiped ∧ t.counter = s.counter ∧ t.time = s.time ∧ t.tolerance = s.tolerance ∧
    t.pcodeLen = s.pcodeLen ∧ t.pcode = s.pcode
  (∀ (i : Instr) (s t : State), exec i s = .next t → t.status.phase ≠ .busy → wiped s t) ∧
  (∀ (w : Word32) (s t : State), illegalCommand w s = .next t → t.status.phase ≠ .busy → wiped s t) ∧
  (∀ s t : State, s.status.phase = .busy → complete s = .next t → wiped s t ∧ t.status.phase ≠ .busy)

/-! ### the register window (spec/20_memory.md, spec/46_control.md) -/

/-- R200: what a read of each offset returns, in any phase; a read changes no register; while BUSY `STATUS` reads with
`PHASE` 1 and the result registers with 0. -/
def Obligations.ReadsReturnTheRegisterMap : Prop :=
  ∀ s : State,
    (hostRead 0x00 4 s).reply = .data 0#32 ∧
    (hostRead 0x04 4 s).reply = .data s.status.word ∧
    (hostRead 0x08 4 s).reply = .data s.errInfo ∧
    (hostRead 0x0C 4 s).reply = .data s.keyLen ∧
    (hostRead 0x10 4 s).reply = .data (s.counter.extractLsb' 0 32) ∧
    (hostRead 0x14 4 s).reply = .data (s.counter.extractLsb' 32 32) ∧
    (hostRead 0x18 4 s).reply = .data (s.time.extractLsb' 0 32) ∧
    (hostRead 0x1C 4 s).reply = .data (s.time.extractLsb' 32 32) ∧
    (hostRead 0x20 4 s).reply = .data s.tolerance ∧
    (hostRead 0x24 4 s).reply = .data s.pcodeLen ∧
    (hostRead 0x28 4 s).reply = .data (s.pcode.extractLsb' 0 32) ∧
    (hostRead 0x2C 4 s).reply = .data (s.pcode.extractLsb' 32 32) ∧
    (hostRead 0x30 4 s).reply = .data s.codeVal ∧
    (hostRead 0x34 4 s).reply = .data (s.codeAscii.extractLsb' 0 32) ∧
    (hostRead 0x38 4 s).reply = .data (s.codeAscii.extractLsb' 32 32) ∧
    (∀ off, off % 4 = 0 → 0x3C ≤ off → off < 0x100 → (hostRead off 4 s).reply = .data 0#32) ∧
    (∀ off, off % 4 = 0 → 0x100 ≤ off → off < 0x100 + s.cfg.keyMaxBytes → (hostRead off 4 s).reply = .data 0#32) ∧
    (∀ off size, ∃ r, hostRead off size s = { s with reply := r }) ∧
    (s.Inv → s.status.phase = .busy → field s.status.word 1 0 = 1 ∧ s.codeVal = 0#32 ∧ s.codeAscii = 0#64)

/-- A read has no side effect, and a repeated read gives the same answer (spec/20_memory.md, first sentence of R46): of
the whole state only the model's own `bus` and `reply` change (notes/assumptions/1.md and 4.md). The answer is the one of
the register map, and it is the same from every state that differs only in those two fields, so also right after the
read. -/
def Obligations.ReadsHaveNoSideEffect : Prop :=
  ∀ (s : State) (off size : Nat) (rest : List BusEvent), s.bus = .read off size :: rest →
    step s = .next { s with bus := rest, reply := (hostRead off size s).reply } ∧
    (∀ (bus rest' : List BusEvent) (reply : Reply), bus = .read off size :: rest' →
      step { s with bus := bus, reply := reply } =
        .next { s with bus := rest', reply := (hostRead off size s).reply }) ∧
    (∀ rest', rest = .read off size :: rest' → ∃ t u, step s = .next t ∧ step t = .next u ∧ u.reply = t.reply ∧
      u = { t with bus := rest' })

/-- R42 with the model's choice of a bus-error reply (notes/assumptions/4.md): an access that is not an aligned 32-bit
one inside the window is refused, changes no state of the block, not even `DROPPED`, and returns no data. -/
def Obligations.RefusedAccessChangesNoState : Prop :=
  ∀ (s : State) (off size : Nat) (v : Word32) (rest : List BusEvent),
    (size ≠ 4 ∨ off % 4 ≠ 0 ∨ 0x100 + s.cfg.keyMaxBytes ≤ off) →
    (s.bus = .read off size :: rest ∨ s.bus = .write off size v :: rest) →
    step s = .next { s with bus := rest, reply := .busError }

/-- What a write of each operand register stores when the block is not BUSY; one half of a 64-bit register leaves
the other unchanged, bit by bit (`hi ++ lo` is the register of these halves), and nothing else changes. -/
def Obligations.OperandWritesStoreTheWord : Prop :=
  ∀ (s : State) (v : Word32) (rest : List BusEvent), s.status.phase ≠ .busy →
    (s.bus = .write 0x0C 4 v :: rest → step s = .next { s with bus := rest, reply := .written, keyLen := v }) ∧
    (s.bus = .write 0x10 4 v :: rest →
      step s = .next { s with bus := rest, reply := .written, counter := s.counter.extractLsb' 32 32 ++ v }) ∧
    (s.bus = .write 0x14 4 v :: rest →
      step s = .next { s with bus := rest, reply := .written, counter := v ++ s.counter.extractLsb' 0 32 }) ∧
    (s.bus = .write 0x18 4 v :: rest →
      step s = .next { s with bus := rest, reply := .written, time := s.time.extractLsb' 32 32 ++ v }) ∧
    (s.bus = .write 0x1C 4 v :: rest →
      step s = .next { s with bus := rest, reply := .written, time := v ++ s.time.extractLsb' 0 32 }) ∧
    (s.bus = .write 0x20 4 v :: rest → step s = .next { s with bus := rest, reply := .written, tolerance := v }) ∧
    (s.bus = .write 0x24 4 v :: rest → step s = .next { s with bus := rest, reply := .written, pcodeLen := v }) ∧
    (s.bus = .write 0x28 4 v :: rest →
      step s = .next { s with bus := rest, reply := .written, pcode := s.pcode.extractLsb' 32 32 ++ v }) ∧
    (s.bus = .write 0x2C 4 v :: rest →
      step s = .next { s with bus := rest, reply := .written, pcode := v ++ s.pcode.extractLsb' 0 32 })

/-- A write of key word `w` replaces its four bytes, first byte in the low lane, and leaves every other key
byte and every other register. -/
def Obligations.KeyWordWriteReplacesFourBytes : Prop :=
  ∀ (s : State) (w : Nat) (v : Word32) (rest : List BusEvent), s.status.phase ≠ .busy →
    s.key.wf s.cfg.keyMaxBytes = true → w < s.cfg.keyMaxBytes / 4 → s.bus = .write (0x100 + 4 * w) 4 v :: rest →
    ∃ key, step s = .next { s with bus := rest, reply := .written, key := key } ∧
      key.wf s.cfg.keyMaxBytes = true ∧
      key.read (4 * w) = BitVec.ofNat 8 (field v 7 0) ∧ key.read (4 * w + 1) = BitVec.ofNat 8 (field v 15 8) ∧
      key.read (4 * w + 2) = BitVec.ofNat 8 (field v 23 16) ∧ key.read (4 * w + 3) = BitVec.ofNat 8 (field v 31 24) ∧
      ∀ x, x < 4 * w ∨ 4 * w + 4 ≤ x → key.read x = s.key.read x

/-- R44: a read of a reserved word returns 0; a write of a reserved or read-only word is ignored without error, without
setting `DROPPED` when the block is not BUSY and setting it when it is. -/
def Obligations.ReadOnlyAndReservedWritesAreIgnored : Prop :=
  ∀ (s : State) (off : Nat) (v : Word32) (rest : List BusEvent),
    (off % 4 = 0 → 0x3C ≤ off → off < 0x100 → (hostRead off 4 s).reply = .data 0#32) ∧
    ((off ∈ [0x04, 0x08, 0x30, 0x34, 0x38] ∨ (off % 4 = 0 ∧ 0x3C ≤ off ∧ off < 0x100)) →
      s.bus = .write off 4 v :: rest →
      (s.status.phase ≠ .busy → step s = .next { s with bus := rest, reply := .written }) ∧
      (s.status.phase = .busy →
        step s = .next { s with bus := rest, reply := .written, status := { s.status with dropped := true } }))

/-- Writing the same value twice equals writing it once, for every word of the window but `CMD`, in every phase
(spec/20_memory.md, second sentence of R46). -/
def Obligations.OperandWritesAreIdempotent : Prop :=
  ∀ (s : State) (off : Nat) (v : Word32) (rest : List BusEvent), s.Inv → off ≠ 0x00 →
    s.bus = .write off 4 v :: .write off 4 v :: rest →
    ∃ t, step s = .next t ∧ step t = .next { t with bus := rest }

/-- R205: while BUSY every aligned write of the window but a CLEAR word is discarded and recorded in `DROPPED`; a word
with `OP = 0xF` written to `CMD` clears. `DROPPED` then stays: a step clears it only by a CLEAR word or by reset, and sets
it only for a host write while BUSY. -/
def Obligations.BusyDropsEveryWriteButClear : Prop :=
  (∀ (s : State) (off : Nat) (v : Word32) (rest : List BusEvent), s.status.phase = .busy → off % 4 = 0 →
    off < 0x100 + s.cfg.keyMaxBytes → s.bus = .write off 4 v :: rest →
    (off = 0x00 ∧ field v 3 0 = 0xF →
      step s = .next { s with
        bus := rest, reply := .written, status := Status.reset, errInfo := 0#32, codeVal := 0#32, codeAscii := 0#64,
        key := [], keyLen := 0#32, snap := none }) ∧
    (¬(off = 0x00 ∧ field v 3 0 = 0xF) →
      step s = .next { s with bus := rest, reply := .written, status := { s.status with dropped := true } })) ∧
  (∀ s t : State, step s = .next t →
    (s.status.dropped = true → t.status.dropped = true ∨ (∃ rest, s.bus = .reset :: rest) ∨
      ∃ w rest ign, s.bus = .write 0x00 4 w :: rest ∧ decode w = .ok (.clear ign)) ∧
    (s.status.dropped = false → t.status.dropped = true → s.status.phase = .busy ∧
      ∃ off size v rest, s.bus = .write off size v :: rest))

/-- The host cannot read the secret (R22, R254): over any schedule that starts no call, two runs that differ only in the
key buffer answer every access alike, and still differ only there. -/
def Obligations.KeyBufferIsNeverReadable : Prop :=
  ∀ (n : Nat) (s : State) (k : Memory), s.status.phase ≠ .busy → s.NoCommandComing →
    ∃ (t : State) (k' : Memory), runSteps n s = .next t ∧
      runSteps n { s with key := k } = .next { t with key := k' }

/-! ### decoding (spec/30_encoding.md) -/

/-- Every word falls in exactly one row of spec/30_encoding.md (R65): it decodes to a command exactly when the row's
match/mask pair accepts it, with the fields of the rule; it is ILLEGAL exactly when no row accepts it; and no word is
accepted by two rows. The rule gives CLEAR no field: that the ignored bits 31:4 are kept in the term is the model's choice
(notes/assumptions/12.md). -/
def Obligations.DecodeFollowsTheMatchMaskPairs : Prop :=
  ∀ w : Word32,
    (clearRow.accepts w = true ↔ decode w = .ok (.clear (field w 31 4))) ∧
    (hotpRow.accepts w = true ↔ decode w = .ok (.hotp (field w 7 4))) ∧
    (totpRow.accepts w = true ↔ decode w = .ok (.totp (field w 7 4))) ∧
    (verifyRow.accepts w = true ↔ decode w = .ok (.verify (field w 7 4) (field w 8 8 == 1))) ∧
    ((∃ e, decode w = .error e) ↔ ∀ r ∈ opcodeRows, r.accepts w = false) ∧
    (opcodeRows.filter fun r => r.accepts w).length ≤ 1

/-- Decoding the word of a well-formed command gives the command back, with every field at every value its bits hold. That
CLEAR carries its ignored bits 31:4 is the model's choice (notes/assumptions/12.md). -/
def Obligations.DecodeOfEncodeIsTheCommand : Prop :=
  ∀ i : Instr, i.wellFormed = true → decode (encode i) = .ok i

/-- A word that decodes is the word of the command it decodes to, which is well-formed: decoding drops no bit.
For CLEAR that rests on the model's choice to keep the ignored bits 31:4 in the syntax (notes/assumptions/12.md); nothing
reads them. -/
def Obligations.EncodeOfDecodeIsTheWord : Prop :=
  ∀ (w : Word32) (i : Instr), decode w = .ok i → i.wellFormed = true ∧ encode i = w

/-- The words written out bit by bit from the spec's encoding decode to the commands they stand for, or are ILLEGAL (R61,
R62, R63, and the word table of spec/95_test_vectors.md section 2.6). The ignored bits kept in a CLEAR term and the reason
an ILLEGAL word carries are the model's choice (notes/assumptions/12.md). -/
def Obligations.WordsOfTheSpecDecodeAsListed : Prop :=
  decode 0b00000000000000000000000000010001#32 = .ok (.hotp 1) ∧
  decode 0b00000000000000000000000000000001#32 = .ok (.hotp 0) ∧
  decode 0b00000000000000000000000011110001#32 = .ok (.hotp 15) ∧
  decode 0b00000000000000000000000000010010#32 = .ok (.totp 1) ∧
  decode 0b00000000000000000000000100010011#32 = .ok (.verify 1 true) ∧
  decode 0b00000000000000000000000110110011#32 = .ok (.verify 11 true) ∧
  decode 0b00000000000000000000000000010011#32 = .ok (.verify 1 false) ∧
  decode 0b00000000000000000000000000001111#32 = .ok (.clear 0) ∧
  decode 0b11111111111111111111111111111111#32 = .ok (.clear 0xFFFFFFF) ∧
  decode 0b00000000000000000000000000000000#32 = .error (.reservedOp 0) ∧
  decode 0b00000000000000000000000000010100#32 = .error (.reservedOp 4) ∧
  decode 0b00000000000000000000000010111110#32 = .error (.reservedOp 14) ∧
  decode 0b00000000000000000000000100010001#32 = .error (.reservedBits 1) ∧
  decode 0b00000000000000000000000100010010#32 = .error (.reservedBits 2) ∧
  decode 0b00000000000000000000001000010011#32 = .error (.reservedBits 3) ∧
  decode 0b10000000000000000000000000010011#32 = .error (.reservedBits 3)

/-- A step runs the decoded command (R51): when the next event is a write of `w` to `CMD` and `w` decodes to `i`, the
step is `exec i` at the state with the event taken and answered; `withFetchWord` places such an event. -/
def Obligations.StepRunsTheDecodedCommand : Prop :=
  (∀ (s : State) (w : Word32) (i : Instr) (rest : List BusEvent), s.bus = .write 0x00 4 w :: rest →
    decode w = .ok i → step s = exec i { s with bus := rest, reply := .written }) ∧
  (∀ (s : State) (nbits w : Nat) (i : Instr), decodeTableWord nbits w = some i →
    step (s.withFetchWord nbits w) = exec i { s with reply := .written })

/-- R221: an ILLEGAL word written while not BUSY raises InvalidCommand: `ERR_INFO` is the word, `OP` its low nibble, the
key is wiped, and no other register changes. -/
def Obligations.IllegalWordRaisesInvalidCommand : Prop :=
  ∀ (s : State) (w : Word32) (e : Illegal) (rest : List BusEvent), s.status.phase ≠ .busy →
    s.bus = .write 0x00 4 w :: rest → decode w = .error e →
    step s = .next { s with
      bus := rest, reply := .written, errInfo := w, key := [], keyLen := 0#32, snap := none, codeVal := 0#32,
      codeAscii := 0#64,
      status := { phase := .error, matched := false, dropped := s.status.dropped, err := .invalidCommand,
                  op := BitVec.ofNat 4 (field w 3 0), site := .entry } }

/-! ### HashProvider and the hash engines (spec/40, 41, 42) -/

/-- R80: each `ALG` code selects its row of the table, the hash function, the block size and the digest length, and every
other code selects none; the digest of every message has the row's length. -/
def Obligations.AlgorithmCodesSelectTheElevenRows : Prop :=
  (∀ n : Nat, (resolve n).map (fun a => (hashFn a, blockSize a, digestLen a)) =
    ([(0x1, sha1, 64, 20), (0x2, sha224, 64, 28), (0x3, sha256, 64, 32), (0x4, sha384, 128, 48), (0x5, sha512, 128, 64),
      (0x6, sha512t224, 128, 28), (0x7, sha512t256, 128, 32), (0x8, sha3x224, 144, 28), (0x9, sha3x256, 136, 32),
      (0xA, sha3x384, 104, 48), (0xB, sha3x512, 72, 64)] :
        List (Nat × (List Byte → List Byte) × Nat × Nat)).lookup n) ∧
  (∀ (a : Alg) (msg : List Byte), resolve (algCode a) = some a ∧ (hashFn a msg).length = digestLen a)

/-- R83: the prepared key has exactly `B` bytes: the key itself if it is no longer than a block, its hash if it is, then
zeros. -/
def Obligations.PreparedKeyFillsABlock : Prop :=
  ∀ (a : Alg) (key : List Byte),
    (prepareKey a key).length = blockSize a ∧
    (key.length ≤ blockSize a → prepareKey a key = key ++ List.replicate (blockSize a - key.length) 0#8) ∧
    (blockSize a < key.length → prepareKey a key =
      hashFn a key ++ List.replicate (blockSize a - digestLen a) 0#8)

/-- R82: HMAC is the hash of the key block with 0x5C added to every byte, followed by the hash of the key block with 0x36
added to every byte and the message; it has exactly `L` bytes. -/
def Obligations.HmacHashesTheInnerDigest : Prop :=
  ∀ (a : Alg) (key msg : List Byte),
    hmac a key msg = hashFn a ((prepareKey a key).map (fun b => b ^^^ 0x5C#8) ++
      hashFn a ((prepareKey a key).map (fun b => b ^^^ 0x36#8) ++ msg)) ∧
    (hmac a key msg).length = digestLen a

/-- R101: the padded message is the message, 0x80, zeros and the length in bits, and its length is the smallest multiple
of the block that leaves room for them; it is cut into blocks of `blk` bytes, first to last; a block is read as sixteen
big-endian words. -/
def Obligations.Sha2PaddingFillsWholeBlocks : Prop :=
  ∀ blk lenBytes : Nat, (blk = 64 ∧ lenBytes = 8) ∨ (blk = 128 ∧ lenBytes = 16) →
    (∀ msg : List Byte,
      (∃ z, mdPad blk lenBytes msg = msg ++ [0x80#8] ++ List.replicate z 0#8 ++ tobe lenBytes (8 * msg.length)) ∧
      (mdPad blk lenBytes msg).length % blk = 0 ∧ msg.length + 1 + lenBytes ≤ (mdPad blk lenBytes msg).length ∧
      (mdPad blk lenBytes msg).length < msg.length + 1 + lenBytes + blk ∧
      (blocksOf blk (mdPad blk lenBytes msg)).flatten = mdPad blk lenBytes msg ∧
      ∀ block ∈ blocksOf blk (mdPad blk lenBytes msg), block.length = blk) ∧
    (∀ block : List Byte, block.length = blk →
      blockWords (blk / 2) block = (List.range 16).map fun t =>
        BitVec.ofNat (blk / 2) (be ((block.drop (blk / 16 * t)).take (blk / 16))))

/-- R132: the SHA-3 padding fills the message up to the smallest multiple of the rate above its length, with 0x86 where
one byte is missing, else 0x06, zeros and 0x80. -/
def Obligations.Sha3PaddingFillsWholeBlocks : Prop :=
  ∀ (r : Nat) (msg : List Byte), 1 ≤ r →
    let q := r - msg.length % r
    (q = 1 → sha3Pad r msg = msg ++ [0x86#8]) ∧
    (q ≠ 1 → sha3Pad r msg = msg ++ [0x06#8] ++ List.replicate (q - 2) 0#8 ++ [0x80#8]) ∧
    (sha3Pad r msg).length % r = 0 ∧ msg.length < (sha3Pad r msg).length ∧
    (sha3Pad r msg).length ≤ msg.length + r

/-- The message schedules of the three engines (spec/41_sha1_sha2.md, the `W[t]` lines of R100, R111 and R121): sixteen
words of the block, then each word from the earlier ones by its recurrence. -/
def Obligations.MessageSchedulesFollowTheRecurrence : Prop :=
  (∀ block : List Byte, block.length = 64 →
    let w := schedule sha1Next 64 block
    w.length = 80 ∧ w.take 16 = blockWords 32 block ∧
    ∀ t, 16 ≤ t → t < 80 → w.getD t 0 =
      (w.getD (t - 3) 0 ^^^ w.getD (t - 8) 0 ^^^ w.getD (t - 14) 0 ^^^ w.getD (t - 16) 0).rotateLeft 1) ∧
  (∀ block : List Byte, block.length = 64 →
    let w := schedule (sha2Next sha256Core) 48 block
    w.length = 64 ∧ w.take 16 = blockWords 32 block ∧
    ∀ t, 16 ≤ t → t < 64 → w.getD t 0 =
      sha256Core.ssig1 (w.getD (t - 2) 0) + w.getD (t - 7) 0 + sha256Core.ssig0 (w.getD (t - 15) 0) + w.getD (t - 16) 0) ∧
  (∀ block : List Byte, block.length = 128 →
    let w := schedule (sha2Next sha512Core) 64 block
    w.length = 80 ∧ w.take 16 = blockWords 64 block ∧
    ∀ t, 16 ≤ t → t < 80 → w.getD t 0 =
      sha512Core.ssig1 (w.getD (t - 2) 0) + w.getD (t - 7) 0 + sha512Core.ssig0 (w.getD (t - 15) 0) + w.getD (t - 16) 0)

/-- R133, R135 and, for the move of the lanes, R134: the Keccak steps at every coordinate. -/
def Obligations.KeccakStepsActOnTheLanesAsWritten : Prop :=
  ∀ (a : Lanes) (x y : Nat), x < 5 → y < 5 →
    let c (x : Nat) : Word64 := a.at x 0 ^^^ a.at x 1 ^^^ a.at x 2 ^^^ a.at x 3 ^^^ a.at x 4
    (keccakTheta a).at x y = a.at x y ^^^ (c ((x + 4) % 5) ^^^ (c ((x + 1) % 5)).rotateLeft 1) ∧
    (keccakRhoPi a).at y ((2 * x + 3 * y) % 5) = (a.at x y).rotateLeft (rhoAt x y) ∧
    (keccakChi a).at x y = a.at x y ^^^ (~~~(a.at ((x + 1) % 5) y) &&& a.at ((x + 2) % 5) y) ∧
    ∀ rc : Word64, (keccakIota rc a).at x y = if x = 0 ∧ y = 0 then a.at 0 0 ^^^ rc else a.at x y

/-- R161: the truncation offset is the low nibble of the LAST byte of the digest, and for every algorithm the bound check
passes: the four bytes lie inside the digest, which has 20 bytes or more. -/
def Obligations.TruncationNeverPassesTheDigest : Prop :=
  ∀ (a : Alg) (key msg : List Byte),
    (hmac a key msg).length = digestLen a ∧ 20 ≤ digestLen a ∧ digestLen a ≤ 64 ∧
    ∃ offset, truncOffset (hmac a key msg) = some offset ∧
      offset = ((hmac a key msg).getD (digestLen a - 1) 0).toNat % 16 ∧ offset + 4 ≤ 19 ∧ offset + 4 ≤ digestLen a

/-- R127: the SHA-2 tables are the ones their formulas give: the fractional parts of cube and square roots of the first
primes, by integer bounds; the SHA-224 words are the low halves of the SHA-384 words; the SHA-512/t words come from the
SHA-512 core on the changed initial value. -/
def Obligations.Sha2TablesAreTheRootsOfThePrimes : Prop :=
  let primes := (List.range 410).filter fun n => 2 ≤ n && (List.range n).all fun d => d < 2 || n % d != 0
  let cube (p : Nat) (k : Word64) : Bool :=
    (List.range 8).any fun z => (z * 2 ^ 64 + k.toNat) ^ 3 ≤ p * 2 ^ 192 && p * 2 ^ 192 < (z * 2 ^ 64 + k.toNat + 1) ^ 3
  let square (p : Nat) (k : Word64) : Bool :=
    (List.range 8).any fun z => (z * 2 ^ 64 + k.toNat) ^ 2 ≤ p * 2 ^ 128 && p * 2 ^ 128 < (z * 2 ^ 64 + k.toNat + 1) ^ 2
  let words {w : Nat} (r : Sha2Regs w) : List (BitVec w) := [r.a, r.b, r.c, r.d, r.e, r.f, r.g, r.hh]
  let flip (r : Sha2Regs 64) : Sha2Regs 64 :=
    let f (x : Word64) := x ^^^ 0xa5a5a5a5a5a5a5a5#64
    ⟨f r.a, f r.b, f r.c, f r.d, f r.e, f r.f, f r.g, f r.hh⟩
  primes.length = 80 ∧ k512.length = 80 ∧ k256.length = 64 ∧
  (primes.zip k512).all (fun q => cube q.1 q.2) = true ∧
  k256 = (k512.take 64).map highHalf ∧
  ((primes.take 8).zip (words iv512)).all (fun q => square q.1 q.2) = true ∧
  words iv256 = (words iv512).map highHalf ∧
  (((primes.drop 8).take 8).zip (words iv384)).all (fun q => square q.1 q.2) = true ∧
  words iv224 = (words iv384).map lowHalf ∧
  wordBytes (words iv512t224) =
    sha2 sha512Core (flip iv512) [0x53, 0x48, 0x41, 0x2d, 0x35, 0x31, 0x32, 0x2f, 0x32, 0x32, 0x34] ∧
  wordBytes (words iv512t256) =
    sha2 sha512Core (flip iv512) [0x53, 0x48, 0x41, 0x2d, 0x35, 0x31, 0x32, 0x2f, 0x32, 0x35, 0x36] ∧
  [(2, sha1K 0), (3, sha1K 20), (5, sha1K 40), (10, sha1K 60)].all (fun q =>
    decide (q.2.toNat ^ 2 ≤ q.1 * 2 ^ 60) && decide (q.1 * 2 ^ 60 < (q.2.toNat + 1) ^ 2)) = true

/-- R139: the SHA-3 rotation offsets and round constants are the ones their generators give. -/
def Obligations.KeccakTablesComeFromTheirGenerators : Prop :=
  let path : List (Nat × Nat) := (List.range 23).foldl
    (fun acc _ => match acc with
      | [] => []
      | (x, y) :: r => (y, (2 * x + 3 * y) % 5) :: (x, y) :: r) [(1, 0)]
  let lfsr : List Nat := (List.range 167).foldl
    (fun acc _ => match acc with
      | [] => []
      | r :: rs => (if r / 128 % 2 = 1 then (2 * r) % 256 ^^^ 0x71 else 2 * r) :: r :: rs) [1]
  let bit (k : Nat) : Nat := lfsr.reverse.getD k 0 % 2
  rhoAt 0 0 = 0 ∧
  ((List.range 24).all fun t =>
    rhoAt (path.reverse.getD t (0, 0)).1 (path.reverse.getD t (0, 0)).2 == (t + 1) * (t + 2) / 2 % 64) = true ∧
  keccakRC = (List.range 24).map fun rnd =>
    BitVec.ofNat 64 ((List.range 7).foldl (fun acc j => acc + bit (7 * rnd + j) * 2 ^ (2 ^ j - 1)) 0)

/-! ### CounterCodec and OTPEngine (spec/43, 44) -/

/-- R150: the message has eight bytes, byte `j` is `counter[63-8j : 56-8j]`, and it reads back big-endian as the whole
64-bit counter. -/
def Obligations.CounterMessageIsBigEndian : Prop :=
  ∀ c : Word64,
    (encodeCounter c).length = 8 ∧ be (encodeCounter c) = c.toNat ∧
    (∀ j < 8, (encodeCounter c).getD j 0 = c.extractLsb' (56 - 8 * j) 8)

/-- R162: the truncated value is the big-endian reading of the four bytes with the top bit masked, below 2^31. -/
def Obligations.TruncatedValueIsMaskedBigEndian : Prop :=
  ∀ (hash : List Byte) (offset : Nat), offset + 4 ≤ hash.length →
    truncValue hash offset = be ((hash.drop offset).take 4) &&& 0x7FFFFFFF ∧ truncValue hash offset < 2 ^ 31

/-- R164: the string of a code below 10^6 is exactly six ASCII digits whose decimal value is the code. -/
def Obligations.CodeStringIsSixDecimalDigits : Prop :=
  ∀ code : Nat, code ≤ 999999 →
    (format6 code).length = 6 ∧ (∀ b ∈ format6 code, 0x30 ≤ b.toNat ∧ b.toNat ≤ 0x39) ∧
    (format6 code).foldl (fun acc b => acc * 10 + (b.toNat - 0x30)) 0 = code

/-- R170: HOTP, at the `CMD` write when the block is not BUSY: with all entry checks passing the previous outcome is
discarded, `SNAP` takes the operands and the phase is BUSY; else the first failing check in the order algorithm, key,
counter is reported. At `Complete` the call ends in DONE with the code in both forms, a code below 10^6, and the key is
wiped. Nothing else changes in any of these. -/
def Obligations.HotpFollowsItsRule : Prop :=
  (∀ (s : State) (alg : Nat), s.status.phase ≠ .busy →
    let failed (e : ErrCode) (info : Word32) : State := { s with
      status := { phase := .error, matched := false, dropped := s.status.dropped, err := e, op := 1#4,
                  site := .entry }
      errInfo := info, codeVal := 0#32, codeAscii := 0#64, key := [], keyLen := 0#32, snap := none }
    (∀ a, resolve alg = some a → 1 ≤ s.keyLen.toNat → s.keyLen.toNat ≤ s.cfg.keyMaxBytes → s.counter ≠ 0#64 →
      exec (.hotp alg) s = .next { s with
        status := { phase := .busy, matched := false, dropped := s.status.dropped, err := .noError, op := 1#4,
                    site := .entry }
        errInfo := 0#32, codeVal := 0#32, codeAscii := 0#64
        snap := some (.hotp a ((List.range s.keyLen.toNat).map s.key.read) s.counter) }) ∧
    (resolve alg = none → exec (.hotp alg) s = .next (failed .invalidAlgorithm (BitVec.ofNat 32 alg))) ∧
    ((resolve alg).isSome = true → (s.keyLen.toNat = 0 ∨ s.cfg.keyMaxBytes < s.keyLen.toNat) →
      exec (.hotp alg) s = .next (failed .invalidKey s.keyLen)) ∧
    ((resolve alg).isSome = true → 1 ≤ s.keyLen.toNat → s.keyLen.toNat ≤ s.cfg.keyMaxBytes → s.counter = 0#64 →
      exec (.hotp alg) s = .next (failed .invalidCounter 0#32))) ∧
  (∀ (s : State) (a : Alg) (key : List Byte) (counter : Word64), s.status.phase = .busy →
    s.snap = some (.hotp a key counter) →
    ∃ code, hotpCode a key counter = some (code, format6 code) ∧ code ≤ 999999 ∧
      complete s = .next { s with
        status := { s.status with phase := .done }
        key := [], keyLen := 0#32, snap := none
        codeVal := BitVec.ofNat 32 code
        codeAscii := BitVec.ofNat 64 (((format6 code).getD 0 0).toNat + ((format6 code).getD 1 0).toNat * 2 ^ 8
          + ((format6 code).getD 2 0).toNat * 2 ^ 16 + ((format6 code).getD 3 0).toNat * 2 ^ 24
          + ((format6 code).getD 4 0).toNat * 2 ^ 32 + ((format6 code).getD 5 0).toNat * 2 ^ 40) })

/-- R171: TOTP, at the `CMD` write when the block is not BUSY: with all entry checks passing the previous outcome is
discarded, `SNAP` takes the operands and the phase is BUSY; else the first failing check in the order algorithm, key,
counter is reported. At `Complete` the call ends in DONE with the code in both forms, a code below 10^6, and the key is
wiped. Nothing else changes in any of these. It is HOTP but for `OP` and the
snapshot's command, and it does not read `TIME`. -/
def Obligations.TotpFollowsItsRule : Prop :=
  (∀ (s : State) (alg : Nat), s.status.phase ≠ .busy →
    let failed (e : ErrCode) (info : Word32) : State := { s with
      status := { phase := .error, matched := false, dropped := s.status.dropped, err := e, op := 2#4,
                  site := .entry }
      errInfo := info, codeVal := 0#32, codeAscii := 0#64, key := [], keyLen := 0#32, snap := none }
    (∀ a, resolve alg = some a → 1 ≤ s.keyLen.toNat → s.keyLen.toNat ≤ s.cfg.keyMaxBytes → s.counter ≠ 0#64 →
      exec (.totp alg) s = .next { s with
        status := { phase := .busy, matched := false, dropped := s.status.dropped, err := .noError, op := 2#4,
                    site := .entry }
        errInfo := 0#32, codeVal := 0#32, codeAscii := 0#64
        snap := some (.totp a ((List.range s.keyLen.toNat).map s.key.read) s.counter) }) ∧
    (resolve alg = none → exec (.totp alg) s = .next (failed .invalidAlgorithm (BitVec.ofNat 32 alg))) ∧
    ((resolve alg).isSome = true → (s.keyLen.toNat = 0 ∨ s.cfg.keyMaxBytes < s.keyLen.toNat) →
      exec (.totp alg) s = .next (failed .invalidKey s.keyLen)) ∧
    ((resolve alg).isSome = true → 1 ≤ s.keyLen.toNat → s.keyLen.toNat ≤ s.cfg.keyMaxBytes → s.counter = 0#64 →
      exec (.totp alg) s = .next (failed .invalidCounter 0#32))) ∧
  (∀ (s : State) (a : Alg) (key : List Byte) (counter : Word64), s.status.phase = .busy →
    s.snap = some (.totp a key counter) →
    ∃ code, hotpCode a key counter = some (code, format6 code) ∧ code ≤ 999999 ∧
      complete s = .next { s with
        status := { s.status with phase := .done }
        key := [], keyLen := 0#32, snap := none
        codeVal := BitVec.ofNat 32 code
        codeAscii := BitVec.ofNat 64 (((format6 code).getD 0 0).toNat + ((format6 code).getD 1 0).toNat * 2 ^ 8
          + ((format6 code).getD 2 0).toNat * 2 ^ 16 + ((format6 code).getD 3 0).toNat * 2 ^ 24
          + ((format6 code).getD 4 0).toNat * 2 ^ 32 + ((format6 code).getD 5 0).toNat * 2 ^ 40) })

/-! ### WindowVerifier (spec/45_window_verifier.md) -/

/-- R185: string equality is length 6 and six equal characters, which is one 48-bit equality with the length test. -/
def Obligations.StringEqualityIsOneWordComparison : Prop :=
  ∀ (plen : Word32) (pcode : BitVec 48) (str : List Byte), str.length = 6 →
    (codeEqual plen pcode str = true ↔ plen = 6#32 ∧ ∀ k < 6, pcode.extractLsb' (8 * k) 8 = str.getD k 0) ∧
    (codeEqual plen pcode str = true ↔ plen = 6#32 ∧ pcode = BitVec.ofNat 48 (le str))

/-- R183: the loop finds a match exactly when some candidate at most `tol` windows back and not below window
0 has the presented code, never one ahead; without one it ends in no match if it never goes below window 0, and
otherwise at the first candidate that does, index `window + 1`. -/
def Obligations.VerifyLoopSearchesBackwardWindows : Prop :=
  ∀ (a : Alg) (key : List Byte) (window : Word64) (tol plen : Word32) (pcode : BitVec 48),
    let fits (i : Nat) : Prop := ∃ code str,
      hotpCode a key (BitVec.ofNat 64 (window.toNat - i)) = some (code, str) ∧ codeEqual plen pcode str = true
    (verifyLoop a key window tol plen pcode = .hit ↔ ∃ i, i ≤ tol.toNat ∧ i ≤ window.toNat ∧ fits i) ∧
    (verifyLoop a key window tol plen pcode = .miss ↔ tol.toNat ≤ window.toNat ∧ ∀ i ≤ tol.toNat, ¬fits i) ∧
    (∀ j, verifyLoop a key window tol plen pcode = .under j ↔
      window.toNat < tol.toNat ∧ j = window.toNat + 1 ∧ ∀ i ≤ window.toNat, ¬fits i)

/-- R180: VERIFY, at the `CMD` write when the block is not BUSY: with all entry checks passing the snapshot holds the
window `floor(TIME/30)`, the register's tolerance if it is supplied and else 1, and the presented code, and the phase is
BUSY; else the first failing check in the order algorithm, key, code is reported; a zero `COUNTER` or any value of
`TOLERANCE` fails none. At `Complete` the call ends in DONE with `MATCH`, or in ERROR with InvalidCounter, the loop index
and `SITE = 1`, and the key is wiped. Nothing else changes in any of these. -/
def Obligations.VerifyFollowsItsRule : Prop :=
  (∀ (s : State) (alg : Nat) (tolv : Bool), s.status.phase ≠ .busy →
    let failed (e : ErrCode) (info : Word32) : State := { s with
      status := { phase := .error, matched := false, dropped := s.status.dropped, err := e, op := 3#4, site := .entry }
      errInfo := info, codeVal := 0#32, codeAscii := 0#64, key := [], keyLen := 0#32, snap := none }
    (∀ a, resolve alg = some a → 1 ≤ s.keyLen.toNat → s.keyLen.toNat ≤ s.cfg.keyMaxBytes → s.pcodeLen ≠ 0#32 →
      exec (.verify alg tolv) s = .next { s with
        status := { phase := .busy, matched := false, dropped := s.status.dropped, err := .noError, op := 3#4,
                    site := .entry }
        errInfo := 0#32, codeVal := 0#32, codeAscii := 0#64
        snap := some (.verify a ((List.range s.keyLen.toNat).map s.key.read) (BitVec.ofNat 64 (s.time.toNat / 30))
          (if tolv then s.tolerance else 1#32) s.pcodeLen (s.pcode.extractLsb' 0 48)) }) ∧
    (resolve alg = none → exec (.verify alg tolv) s = .next (failed .invalidAlgorithm (BitVec.ofNat 32 alg))) ∧
    ((resolve alg).isSome = true → (s.keyLen.toNat = 0 ∨ s.cfg.keyMaxBytes < s.keyLen.toNat) →
      exec (.verify alg tolv) s = .next (failed .invalidKey s.keyLen)) ∧
    ((resolve alg).isSome = true → 1 ≤ s.keyLen.toNat → s.keyLen.toNat ≤ s.cfg.keyMaxBytes → s.pcodeLen = 0#32 →
      exec (.verify alg tolv) s = .next (failed .invalidCode 0#32))) ∧
  (∀ (s : State) (a : Alg) (key : List Byte) (window : Word64) (tol plen : Word32) (pcode : BitVec 48),
    s.status.phase = .busy → s.snap = some (.verify a key window tol plen pcode) →
    let ended (m : Bool) : State := { s with
      status := { s.status with phase := .done, matched := m }, key := [], keyLen := 0#32, snap := none }
    (verifyLoop a key window tol plen pcode = .hit ∧ complete s = .next (ended true)) ∨
    (verifyLoop a key window tol plen pcode = .miss ∧ complete s = .next (ended false)) ∨
    (∃ i, verifyLoop a key window tol plen pcode = .under i ∧ complete s = .next { s with
      status := { phase := .error, matched := false, dropped := s.status.dropped, err := .invalidCounter,
                  op := s.status.op, site := .verifyLoop }
      errInfo := BitVec.ofNat 32 i, codeVal := 0#32, codeAscii := 0#64, key := [], keyLen := 0#32, snap := none }))

/-- What the spec derives from R183 in spec/45_window_verifier.md (R188): with the presented code that of the window `d` back, VERIFY ends DONE with `MATCH = 1` if the tolerance reaches
`d`, and with `MATCH = 0` if it does not and no nearer candidate has the same code. -/
def Obligations.ToleranceDecidesWhichOldCodeIsAccepted : Prop :=
  ∀ (s : State) (alg : Nat) (a : Alg) (d code : Nat), s.status.phase ≠ .busy → resolve alg = some a →
    keyLenLegal s = true → s.pcodeLen = 6#32 → d ≤ s.time.toNat / 30 →
    hotpCode a (secret s) (BitVec.ofNat 64 (s.time.toNat / 30 - d)) = some (code, format6 code) →
    s.pcode.extractLsb' 0 48 = BitVec.ofNat 48 (le (format6 code)) →
    ∃ t u, exec (.verify alg true) s = .next t ∧ complete t = .next u ∧
      (d ≤ s.tolerance.toNat → u.status.phase = .done ∧ u.status.matched = true) ∧
      (s.tolerance.toNat < d →
        (∀ i ≤ s.tolerance.toNat, ∀ c, hotpCode a (secret s) (BitVec.ofNat 64 (s.time.toNat / 30 - i)) ≠
          some (c, format6 code)) →
        u.status.phase = .done ∧ u.status.matched = false)

/-! ### control, errors, whole-machine rules (spec/46_control.md, spec/60_exceptions.md) -/

/-- R211: CLEAR is accepted in every phase, BUSY included, whatever its ignored bits: `STATUS`, `ERR_INFO`, the result
registers, the key, its length and the snapshot are cleared, and nothing else changes. -/
def Obligations.ClearCompletesInEveryPhase : Prop :=
  ∀ (s : State) (ign : Nat),
    (exec (.clear ign) s = .next { s with
      status := Status.reset, errInfo := 0#32, codeVal := 0#32, codeAscii := 0#64, key := [], keyLen := 0#32,
      snap := none }) ∧ Status.reset.word = 0#32

/-- R230: the one error entry: what it writes, and that every other register is unchanged. -/
def Obligations.ErrorEntryRecordsAndWipes : Prop :=
  ∀ (e : ErrCode) (info : Word32) (site : Site) (s : State),
    raise e info site s = { s with
      status := { phase := .error, matched := false, dropped := s.status.dropped, err := e, op := s.status.op,
                  site := site }
      errInfo := info, codeVal := 0#32, codeAscii := 0#64, key := [], keyLen := 0#32, snap := none }

/-- What any command leaves unchanged: the configuration, the operand registers other than the key, the model's schedule
and reply; the key and its length stay as they are or are wiped whole; `DROPPED` is set only while BUSY and cleared only
by CLEAR. -/
def Obligations.CommandsLeaveTheOtherRegisters : Prop :=
  ∀ (i : Instr) (s t : State), exec i s = .next t →
    t.cfg = s.cfg ∧ t.counter = s.counter ∧ t.time = s.time ∧ t.tolerance = s.tolerance ∧ t.pcodeLen = s.pcodeLen ∧
    t.pcode = s.pcode ∧ t.bus = s.bus ∧ t.reply = s.reply ∧
    ((t.keyLen = s.keyLen ∧ ∀ k, t.key.read k = s.key.read k) ∨ t.Wiped) ∧
    (t.status.dropped = s.status.dropped ∨ (s.status.phase = .busy ∧ t.status.dropped = true) ∨
      ∃ ign, i = .clear ign)

/-- What `Complete` leaves unchanged: the configuration, every operand register but the key, `OP`, `DROPPED`, the model's
schedule and reply; and it leaves everything where the block is not BUSY. -/
def Obligations.CompleteLeavesTheOtherRegisters : Prop :=
  ∀ s t : State, complete s = .next t →
    t.cfg = s.cfg ∧ t.counter = s.counter ∧ t.time = s.time ∧ t.tolerance = s.tolerance ∧ t.pcodeLen = s.pcodeLen ∧
    t.pcode = s.pcode ∧ t.bus = s.bus ∧ t.reply = s.reply ∧ t.status.op = s.status.op ∧
    t.status.dropped = s.status.dropped ∧ (s.status.phase ≠ .busy → t = s)

/-- The phase after a step, for every kind of next event, as the table of spec/46_control.md (R209) has it. That a BUSY
block completes when no event is left (notes/assumptions/2.md), and that a `complete` event, or no event, leaves a block
that is not BUSY where it is (notes/assumptions/3.md), is the model's choice. -/
def Obligations.PhaseChangesOnlyAsTheTableSays : Prop :=
  ∀ s t : State, s.Inv → step s = .next t →
    ((s.bus = [] ∨ ∃ rest, s.bus = .complete :: rest) →
      (s.status.phase ≠ .busy → t.status.phase = s.status.phase) ∧
      (s.status.phase = .busy → t.status.phase = .done ∨
        (t.status.phase = .error ∧ s.status.op = 3#4 ∧ t.status.err = .invalidCounter ∧
          t.status.site = .verifyLoop))) ∧
    (∀ rest, s.bus = .reset :: rest → t.status.phase = .idle) ∧
    (∀ off size rest, s.bus = .read off size :: rest → t.status.phase = s.status.phase) ∧
    (∀ off size v rest, s.bus = .write off size v :: rest → ¬(off = 0x00 ∧ size = 4) →
      t.status.phase = s.status.phase) ∧
    (∀ w rest, s.bus = .write 0x00 4 w :: rest → (∀ ign, decode w ≠ .ok (.clear ign)) → s.status.phase = .busy →
      t.status.phase = .busy ∧ t.status.dropped = true) ∧
    (∀ w rest ign, s.bus = .write 0x00 4 w :: rest → decode w = .ok (.clear ign) → t.status.phase = .idle) ∧
    (∀ w rest e, s.bus = .write 0x00 4 w :: rest → decode w = .error e → s.status.phase ≠ .busy →
      t.status.phase = .error ∧ t.status.err = .invalidCommand) ∧
    (∀ w rest i, s.bus = .write 0x00 4 w :: rest → decode w = .ok i → (∀ ign, i ≠ .clear ign) →
      s.status.phase ≠ .busy →
      (i.ChecksPass s → t.status.phase = .busy) ∧ (¬i.ChecksPass s → t.status.phase = .error))

/-- R8: the outcome of a call is a function of the operands at its `CMD` write alone: two states with the same operands of
a command, whatever else they hold, show the same outcome when the call is over. -/
def Obligations.OutcomeDependsOnTheOperandsAlone : Prop :=
  ∀ (i : Instr) (s s' : State), s.cfg = s'.cfg → s.status.phase ≠ .busy → s'.status.phase ≠ .busy →
    i.SameOperands s s' →
    ∃ t t' u u', exec i s = .next t ∧ exec i s' = .next t' ∧ complete t = .next u ∧ complete t' = .next u' ∧
      u.SameOutcome u'

/-- Key bytes at and above `KEY_LEN` are ignored by every command: two states that differ only there are the
SAME state once the call is over (spec/10_state.md, last sentence of R22). -/
def Obligations.KeyBytesAboveTheLengthAreIgnored : Prop :=
  ∀ (i : Instr) (s : State) (k : Memory), s.status.phase ≠ .busy →
    (∀ x < s.keyLen.toNat, k.read x = s.key.read x) →
    ∃ t t' u, exec i s = .next t ∧ exec i { s with key := k } = .next t' ∧ complete t = .next u ∧
      complete t' = .next u

/-- What the spec derives from R25 in spec/70_reset_and_hazards.md (R271): the key must be loaded again before every command: right after a call is over, HOTP, TOTP and VERIFY with a
legal algorithm all end in InvalidKey. -/
def Obligations.SecondCommandWithoutAKeyFails : Prop :=
  ∀ (s t : State) (alg : Nat) (i : Instr), s.status.phase = .busy → complete s = .next t →
    (resolve alg).isSome = true → (i = .hotp alg ∨ i = .totp alg ∨ ∃ tolv, i = .verify alg tolv) →
    ∃ u, exec i t = .next u ∧ u.status.phase = .error ∧ u.status.err = .invalidKey ∧ u.errInfo = 0#32

/-- The reset state meets the invariant, for every configuration. -/
def Obligations.ResetMeetsTheInvariant : Prop := ∀ cfg : Config, (State.resetWith cfg).Inv

/-- Every step keeps the invariant: the canonical key buffer, the snapshot equal to the registers while BUSY and absent
otherwise, the status fields consistent with the phase, and the result registers as R19 and R20 say. -/
def Obligations.EveryStepKeepsTheInvariant : Prop := ∀ s t : State, s.Inv → step s = .next t → t.Inv

/-- From a state that meets the invariant no step stops: neither of the model's two faults is reached and nothing is
refused. -/
def Obligations.NoStepStops : Prop := ∀ s : State, s.Inv → ∃ t, step s = .next t

/-- R210, as far as a finite schedule shows it: whatever the host does, once its events are over the call is over too.
That a BUSY block completes when no event is left is the model's form of weak fairness (notes/assumptions/2.md). -/
def Obligations.EveryCallEndsWithTheSchedule : Prop :=
  ∀ s : State, s.Inv → ∃ t : State, runSteps (s.bus.length + 1) s = .next t ∧ t.bus = [] ∧ t.status.phase ≠ .busy

/-! ### the host sequences (spec/30_encoding.md R68) -/

/-- R68: the sequences `hotp` and `totp`, run from any state that is not BUSY, with any number of polls, end in DONE with
the code of the key and counter, in both forms, and the last `STATUS` read shows it. How many polls there are and
where `Complete` stands among them is the schedule's (notes/assumptions/16.md). -/
def Obligations.HotpAndTotpSequencesReturnTheCode : Prop :=
  ∀ (s : State) (a : Alg) (key : List Byte) (counter : Word64) (polls : Nat) (seq rest : List BusEvent),
    s.status.phase ≠ .busy → s.key.wf s.cfg.keyMaxBytes = true → 1 ≤ key.length →
    key.length ≤ s.cfg.keyMaxBytes → key.length < 2 ^ 32 → counter ≠ 0#64 →
    (seq = hotpSequence a key counter polls ∨ seq = totpSequence a key counter polls) → s.bus = seq ++ rest →
    ∃ (t : State) (code : Nat), runSteps seq.length s = .next t ∧ t.bus = rest ∧
      hotpCode a key counter = some (code, format6 code) ∧ t.status.phase = .done ∧ t.status.err = .noError ∧
      t.codeVal = BitVec.ofNat 32 code ∧ t.codeAscii = packString (format6 code) ∧
      t.reply = .data t.status.word ∧ t.Wiped

/-- R68: the sequence `totpValidate`, run from any state that is not BUSY, ends with the verdict of the window loop on
the host's time, code and tolerance (1 when none is supplied). How many polls there are and where `Complete` stands among
them is the schedule's (notes/assumptions/16.md). -/
def Obligations.TotpValidateSequenceReturnsTheVerdict : Prop :=
  ∀ (s : State) (a : Alg) (key code : List Byte) (tolerance : Option Word32) (now : Word64) (polls : Nat)
    (rest : List BusEvent),
    s.status.phase ≠ .busy → s.key.wf s.cfg.keyMaxBytes = true → 1 ≤ key.length →
    key.length ≤ s.cfg.keyMaxBytes → key.length < 2 ^ 32 → 1 ≤ code.length → code.length < 2 ^ 32 →
    s.bus = totpValidateSequence a key code tolerance now polls ++ rest →
    let verdict := verifyLoop a key (BitVec.ofNat 64 (now.toNat / 30)) (tolerance.getD 1#32)
      (BitVec.ofNat 32 code.length) (BitVec.ofNat 48 (le (code.take 6)))
    ∃ t : State, runSteps (totpValidateSequence a key code tolerance now polls).length s = .next t ∧ t.bus = rest ∧
      t.reply = .data t.status.word ∧ t.Wiped ∧
      (verdict = .hit → t.status.phase = .done ∧ t.status.matched = true) ∧
      (verdict = .miss → t.status.phase = .done ∧ t.status.matched = false) ∧
      (∀ i, verdict = .under i → t.status.phase = .error ∧ t.status.err = .invalidCounter ∧
        t.status.site = .verifyLoop ∧ t.errInfo = BitVec.ofNat 32 i)

/-! ### statements beside the above -/

/-- R160, R163: `hotpCode` is its five steps: the message of the counter, its HMAC, the offset in the last byte's low
nibble, the masked big-endian value there, and its remainder modulo 1 000 000 with that number's string. -/
def Obligations.HotpCodeIsItsFiveSteps : Prop :=
  ∀ (a : Alg) (key : List Byte) (counter : Word64),
    let hash := hmac a key (encodeCounter counter)
    let offset := (hash.getD (digestLen a - 1) 0).toNat % 16
    let code := truncValue hash offset % 1000000
    truncOffset hash = some offset ∧ hotpCode a key counter = some (code, format6 code) ∧ code ≤ 999999 ∧
    totpCode a key counter = hotpCode a key counter

/-- The machine's reset state is the one of the default `KEY_MAX_BYTES`, 256: the model's choice among the configurations
of R6 (notes/assumptions/5.md). -/
def Obligations.ResetStateHasTheDefaultConfiguration : Prop :=
  State.reset = State.resetWith Config.standard ∧ Config.standard.keyMaxBytes = 256

/-- What the spec derives from R150 in spec/43_counter_codec.md (R151): the message of a counter below 2^32 is four zero
bytes and the big-endian bytes of its low word. -/
def Obligations.SmallCountersHaveZeroHighBytes : Prop :=
  ∀ c : Word64, c.toNat < 2 ^ 32 → encodeCounter c = [0, 0, 0, 0] ++ tobe 4 c.toNat

/-- SHA-1 as spec/41_sha1_sha2.md writes it (R100, R102): from the words `h`, eighty rounds over the schedule of the
block, and the result added to `h`; the digest is the words' big-endian bytes after the last block. -/
def Obligations.Sha1FollowsItsRounds : Prop :=
  (∀ (h : Sha1Regs) (block : List Byte), block.length = 64 → ∃ r : Nat → Sha1Regs, r 0 = h ∧
    (∀ t < 80,
      let f : Word32 :=
        if t < 20 then ((r t).b &&& (r t).c) ^^^ (~~~(r t).b &&& (r t).d)
        else if t < 40 then (r t).b ^^^ (r t).c ^^^ (r t).d
        else if t < 60 then ((r t).b &&& (r t).c) ^^^ ((r t).b &&& (r t).d) ^^^ ((r t).c &&& (r t).d)
        else (r t).b ^^^ (r t).c ^^^ (r t).d
      let k : Word32 :=
        if t < 20 then 0x5A827999#32 else if t < 40 then 0x6ED9EBA1#32 else if t < 60 then 0x8F1BBCDC#32
        else 0xCA62C1D6#32
      r (t + 1) =
        ⟨(r t).a.rotateLeft 5 + f + (r t).e + k + (schedule sha1Next 64 block).getD t 0, (r t).a,
          (r t).b.rotateLeft 30, (r t).c, (r t).d⟩) ∧
    sha1Block h block =
      ⟨h.a + (r 80).a, h.b + (r 80).b, h.c + (r 80).c, h.d + (r 80).d, h.e + (r 80).e⟩) ∧
  (∀ msg : List Byte,
    let h := (blocksOf 64 (mdPad 64 8 msg)).foldl sha1Block
      ⟨0x67452301#32, 0xEFCDAB89#32, 0x98BADCFE#32, 0x10325476#32, 0xC3D2E1F0#32⟩
    sha1 msg = tobe 4 h.a.toNat ++ tobe 4 h.b.toNat ++ tobe 4 h.c.toNat ++ tobe 4 h.d.toNat ++ tobe 4 h.e.toNat)

/-- The SHA-2 cores as spec/41_sha1_sha2.md writes them (R110 to R125): the sigma functions, the rounds over the schedule
and the round constants, the sum with `h`, and the first bytes of the words for each digest. -/
def Obligations.Sha2CoresFollowTheirRounds : Prop :=
  (∀ (h : Sha2Regs 32) (block : List Byte), block.length = 64 → ∃ r : Nat → Sha2Regs 32, r 0 = h ∧
    (∀ t < 64,
      let x := r t
      let t1 := x.hh + (x.e.rotateRight 6 ^^^ x.e.rotateRight 11 ^^^ x.e.rotateRight 25)
        + ((x.e &&& x.f) ^^^ (~~~x.e &&& x.g)) + k256.getD t 0 + (schedule (sha2Next sha256Core) 48 block).getD t 0
      let t2 := (x.a.rotateRight 2 ^^^ x.a.rotateRight 13 ^^^ x.a.rotateRight 22)
        + ((x.a &&& x.b) ^^^ (x.a &&& x.c) ^^^ (x.b &&& x.c))
      r (t + 1) = ⟨t1 + t2, x.a, x.b, x.c, x.d + t1, x.e, x.f, x.g⟩) ∧
    sha2Block sha256Core h block =
      ⟨h.a + (r 64).a, h.b + (r 64).b, h.c + (r 64).c, h.d + (r 64).d, h.e + (r 64).e, h.f + (r 64).f,
        h.g + (r 64).g, h.hh + (r 64).hh⟩) ∧
  (∀ (h : Sha2Regs 64) (block : List Byte), block.length = 128 → ∃ r : Nat → Sha2Regs 64, r 0 = h ∧
    (∀ t < 80,
      let x := r t
      let t1 := x.hh + (x.e.rotateRight 14 ^^^ x.e.rotateRight 18 ^^^ x.e.rotateRight 41)
        + ((x.e &&& x.f) ^^^ (~~~x.e &&& x.g)) + k512.getD t 0 + (schedule (sha2Next sha512Core) 64 block).getD t 0
      let t2 := (x.a.rotateRight 28 ^^^ x.a.rotateRight 34 ^^^ x.a.rotateRight 39)
        + ((x.a &&& x.b) ^^^ (x.a &&& x.c) ^^^ (x.b &&& x.c))
      r (t + 1) = ⟨t1 + t2, x.a, x.b, x.c, x.d + t1, x.e, x.f, x.g⟩) ∧
    sha2Block sha512Core h block =
      ⟨h.a + (r 80).a, h.b + (r 80).b, h.c + (r 80).c, h.d + (r 80).d, h.e + (r 80).e, h.f + (r 80).f,
        h.g + (r 80).g, h.hh + (r 80).hh⟩) ∧
  (∀ x : Word32,
    sha256Core.ssig0 x = x.rotateRight 7 ^^^ x.rotateRight 18 ^^^ (x >>> 3) ∧
    sha256Core.ssig1 x = x.rotateRight 17 ^^^ x.rotateRight 19 ^^^ (x >>> 10)) ∧
  (∀ x : Word64,
    sha512Core.ssig0 x = x.rotateRight 1 ^^^ x.rotateRight 8 ^^^ (x >>> 7) ∧
    sha512Core.ssig1 x = x.rotateRight 19 ^^^ x.rotateRight 61 ^^^ (x >>> 6)) ∧
  (∀ msg : List Byte,
    let core256 (iv : Sha2Regs 32) : List Byte :=
      let h := (blocksOf 64 (mdPad 64 8 msg)).foldl (sha2Block sha256Core) iv
      [h.a, h.b, h.c, h.d, h.e, h.f, h.g, h.hh].flatMap fun x => tobe 4 x.toNat
    let core512 (iv : Sha2Regs 64) : List Byte :=
      let h := (blocksOf 128 (mdPad 128 16 msg)).foldl (sha2Block sha512Core) iv
      [h.a, h.b, h.c, h.d, h.e, h.f, h.g, h.hh].flatMap fun x => tobe 8 x.toNat
    sha256 msg = core256 iv256 ∧ sha224 msg = (core256 iv224).take 28 ∧ sha512 msg = core512 iv512 ∧
    sha384 msg = (core512 iv384).take 48 ∧ sha512t224 msg = (core512 iv512t224).take 28 ∧
    sha512t256 msg = (core512 iv512t256).take 32)

/-- The SHA-3 sponge as spec/42_sha3.md writes it (R131, R137, R138): a block is added into the first `r/8` lanes,
little-endian; the permutation is twenty-four rounds of the five steps; the digest is the first bytes of the lanes,
little-endian, after the last block of the padded message. -/
def Obligations.Sha3FollowsTheSponge : Prop :=
  (∀ (a : Lanes) (block : List Byte) (x y : Nat), block.length % 8 = 0 → x < 5 → y < 5 →
    (keccakAbsorb a block).at x y =
      if x + 5 * y < block.length / 8 then
        a.at x y ^^^ BitVec.ofNat 64 (le ((block.drop (8 * (x + 5 * y))).take 8))
      else a.at x y) ∧
  (∀ a : Lanes, ∃ st : Nat → Lanes, st 0 = a ∧
    (∀ n < 24, st (n + 1) = keccakIota (keccakRC.getD n 0) (keccakChi (keccakRhoPi (keccakTheta (st n))))) ∧
    keccakF a = st 24) ∧
  (∀ (a : Lanes) (j : Nat), a.length = 25 → j < 200 →
    (laneBytes a).length = 200 ∧
    (laneBytes a).getD j 0 = (a.at (j / 8 % 5) (j / 8 / 5)).extractLsb' (8 * (j % 8)) 8) ∧
  (∀ msg : List Byte,
    let digest (r len : Nat) : List Byte :=
      (laneBytes ((blocksOf r (sha3Pad r msg)).foldl (fun a block => keccakF (keccakAbsorb a block))
        (List.replicate 25 0#64))).take len
    sha3x224 msg = digest 144 28 ∧ sha3x256 msg = digest 136 32 ∧ sha3x384 msg = digest 104 48 ∧
    sha3x512 msg = digest 72 64)
end

