-- ==== Sys2Proof/Laws/Bytes.lean ====
section
/-! SUPPORT. The laws of byte sequences, byte order and register halves. -/

namespace Sys2Proof.Machine

@[simp] theorem tobe_length (n v : Nat) : (tobe n v).length = n := by simp [tobe]

@[simp] theorem tole_length (n v : Nat) : (tole n v).length = n := by simp [tole]

@[simp] theorem xorBytes_length (a b : List Byte) : (xorBytes a b).length = min a.length b.length := by
  simp [xorBytes]

/-- `be` of a sequence with one more byte at its end. -/
theorem be_append_singleton (bs : List Byte) (b : Byte) : be (bs ++ [b]) = be bs * 256 + b.toNat := by
  simp [be, List.foldl_append]

/-- `tobe` one byte longer ends in the low byte. -/
theorem tobe_succ (n v : Nat) : tobe (n + 1) v = tobe n (v / 256) ++ [BitVec.ofNat 8 v] := by
  simp only [tobe, List.range_succ, List.map_append, List.map_cons, List.map_nil]
  congr 1
  · refine List.map_congr_left fun j hj => ?_
    have hj := List.mem_range.1 hj
    have : 8 * (n + 1 - 1 - j) = 8 + 8 * (n - 1 - j) := by omega
    rw [this, pow_add, ← Nat.div_div_eq_div_mul, show (2 : Nat) ^ 8 = 256 from rfl]
  · simp

/-- `be(tobe_n(v)) = v` for a value that fits (spec/00_scope.md section 5.2). -/
theorem be_tobe (n v : Nat) : be (tobe n v) = v % 2 ^ (8 * n) := by
  induction n generalizing v with
  | zero => simp [tobe, be, Nat.mod_one]
  | succ n ih =>
    rw [tobe_succ, be_append_singleton, ih, BitVec.toNat_ofNat]
    have h : 2 ^ (8 * (n + 1)) = 256 * 2 ^ (8 * n) := by rw [Nat.mul_succ, pow_add]; ring
    rw [h, Nat.mod_mul]
    omega

/-- `le` is below the power of 256 of its length. -/
theorem le_lt (bs : List Byte) : le bs < 2 ^ (8 * bs.length) := by
  induction bs with
  | nil => simp [le]
  | cons b bs ih =>
    have hb : b.toNat < 256 := b.isLt
    have h : 2 ^ (8 * (bs.length + 1)) = 256 * 2 ^ (8 * bs.length) := by rw [Nat.mul_succ, pow_add]; ring
    simp only [le, List.length_cons, h]
    omega

/-- Byte `k` of `le` of a sequence is its entry `k`, and 0 past its end. -/
theorem le_byte (bs : List Byte) (k : Nat) : BitVec.ofNat 8 (le bs / 2 ^ (8 * k)) = bs.getD k 0 := by
  induction bs generalizing k with
  | nil => simp [le]
  | cons b bs ih =>
    have hb : b.toNat < 256 := b.isLt
    cases k with
    | zero =>
      apply BitVec.eq_of_toNat_eq
      simp only [le, BitVec.toNat_ofNat, Nat.mul_zero, pow_zero, Nat.div_one, List.getD_cons_zero]
      omega
    | succ k =>
      have h : 2 ^ (8 * (k + 1)) = 256 * 2 ^ (8 * k) := by rw [Nat.mul_succ, pow_add]; ring
      rw [List.getD_cons_succ, ← ih k, h, ← Nat.div_div_eq_div_mul]
      congr 2
      simp only [le]
      omega

@[simp] theorem lowHalf_joinHalves (lo hi : Word32) : lowHalf (joinHalves lo hi) = lo := by
  apply BitVec.eq_of_toNat_eq
  have := lo.isLt; have := hi.isLt
  simp only [lowHalf, joinHalves, BitVec.toNat_ofNat]
  omega

@[simp] theorem highHalf_joinHalves (lo hi : Word32) : highHalf (joinHalves lo hi) = hi := by
  apply BitVec.eq_of_toNat_eq
  have := lo.isLt; have := hi.isLt
  simp only [highHalf, joinHalves, BitVec.toNat_ofNat]
  omega

/-- A register is its two halves (R15). -/
@[simp] theorem joinHalves_halves (v : Word64) : joinHalves (lowHalf v) (highHalf v) = v := by
  apply BitVec.eq_of_toNat_eq
  have := v.isLt
  simp only [lowHalf, highHalf, joinHalves, BitVec.toNat_ofNat]
  omega

@[simp] theorem lowHalf_setLowHalf (v : Word64) (x : Word32) : lowHalf (setLowHalf v x) = x := by simp [setLowHalf]
@[simp] theorem highHalf_setLowHalf (v : Word64) (x : Word32) : highHalf (setLowHalf v x) = highHalf v := by
  simp [setLowHalf]
@[simp] theorem lowHalf_setHighHalf (v : Word64) (x : Word32) : lowHalf (setHighHalf v x) = lowHalf v := by
  simp [setHighHalf]
@[simp] theorem highHalf_setHighHalf (v : Word64) (x : Word32) : highHalf (setHighHalf v x) = x := by
  simp [setHighHalf]

end Sys2Proof.Machine
end

