-- ==== Sys2Proof/Laws/Decode.lean ====
section
/-! SUPPORT. The laws of bit fields and of the match/mask pairs of the opcode table (R65). -/

namespace Sys2Proof

/-- A field of a word built from a number that fits. -/
theorem field_ofNat (n hi lo : Nat) (hn : n < 2 ^ 32) :
    field (BitVec.ofNat 32 n) hi lo = n / 2 ^ lo % 2 ^ (hi - lo + 1) := by
  rw [field, BitVec.toNat_ofNat, Nat.mod_eq_of_lt hn]

/-- A word masked to its low `k` bits. -/
theorem and_low_mask (x k : Nat) : x &&& (2 ^ k - 1) = x % 2 ^ k := Nat.and_two_pow_sub_one_eq_mod x k

/-- `accepts` as an equation between numbers. -/
theorem accepts_iff (r : OpcodeRow) (w : Word32) :
    r.accepts w = true ↔ w.toNat &&& r.mask.toNat = r.value.toNat := by
  rw [OpcodeRow.accepts, beq_iff_eq, ← BitVec.toNat_inj, BitVec.toNat_and]

/-- A masked number splits at bit `k`. -/
theorem land_split (k x m v : Nat) : x &&& m = v ↔
    (x / 2 ^ k &&& m / 2 ^ k = v / 2 ^ k) ∧ (x % 2 ^ k &&& m % 2 ^ k = v % 2 ^ k) := by
  rw [← Nat.and_div_two_pow, ← Nat.and_mod_two_pow]
  refine ⟨fun h => ⟨by rw [h], by rw [h]⟩, fun h => ?_⟩
  rw [← Nat.div_add_mod (x &&& m) (2 ^ k), h.1, h.2, Nat.div_add_mod]

/-- CLEAR's pair: `OP` is 0xF, the rest ignored (R65). -/
theorem clearRow_accepts (w : Word32) : clearRow.accepts w = true ↔ field w 3 0 = 0xF := by
  have h := and_low_mask w.toNat 4
  rw [accepts_iff, field]
  simp only [clearRow, BitVec.toNat_ofNat]
  norm_num at h ⊢
  omega

/-- HOTP's pair: `OP` is 1 and bits 31:8 are 0 (R65). -/
theorem hotpRow_accepts (w : Word32) : hotpRow.accepts w = true ↔ field w 3 0 = 0x1 ∧ field w 31 8 = 0 := by
  have h := and_low_mask (w.toNat % 256) 4
  have h' := and_low_mask (w.toNat / 256) 24
  have hw := w.isLt
  rw [accepts_iff, field, field, land_split 8]
  simp only [hotpRow, BitVec.toNat_ofNat]
  norm_num at h h' ⊢
  omega

/-- TOTP's pair: `OP` is 2 and bits 31:8 are 0 (R65). -/
theorem totpRow_accepts (w : Word32) : totpRow.accepts w = true ↔ field w 3 0 = 0x2 ∧ field w 31 8 = 0 := by
  have h := and_low_mask (w.toNat % 256) 4
  have h' := and_low_mask (w.toNat / 256) 24
  have hw := w.isLt
  rw [accepts_iff, field, field, land_split 8]
  simp only [totpRow, BitVec.toNat_ofNat]
  norm_num at h h' ⊢
  omega

/-- VERIFY's pair: `OP` is 3 and bits 31:9 are 0 (R65). -/
theorem verifyRow_accepts (w : Word32) : verifyRow.accepts w = true ↔ field w 3 0 = 0x3 ∧ field w 31 9 = 0 := by
  have h := and_low_mask (w.toNat % 512) 4
  have h' := and_low_mask (w.toNat / 512) 23
  have hw := w.isLt
  rw [accepts_iff, field, field, land_split 9]
  simp only [verifyRow, BitVec.toNat_ofNat]
  norm_num at h h' ⊢
  omega

end Sys2Proof
end

