-- ==== Sys2Proof/Laws/Memory.lean ====
section
/-! SUPPORT. The laws of the key buffer: a read after a write, the canonical form, and when two buffers are equal. -/

namespace Sys2Proof.Machine

@[simp] theorem Memory.read_nil (x : Nat) : Memory.read [] x = 0#8 := rfl

theorem Memory.read_cons (k : Nat) (v : Byte) (m : Memory) (x : Nat) :
    Memory.read ((k, v) :: m) x = if x = k then v else Memory.read m x := by
  unfold Memory.read
  by_cases h : x = k
  · simp [List.lookup, h]
  · have : (x == k) = false := by simpa using h
    simp [List.lookup, this, h]

/-- In a canonical buffer whose addresses start at `lo`, an address below `lo` is unlisted. -/
theorem Memory.read_below {m : Memory} {lo cap x : Nat} (hm : Memory.wfFrom lo cap m = true) (hx : x < lo) :
    m.read x = 0#8 := by
  induction m generalizing lo with
  | nil => rfl
  | cons c m ih =>
    obtain ⟨k, v⟩ := c
    simp only [Memory.wfFrom, Bool.and_eq_true, decide_eq_true_eq] at hm
    rw [Memory.read_cons, if_neg (by omega)]
    exact ih hm.2 (by omega)

/-- A read after a write to a canonical buffer (R22). -/
theorem Memory.read_write {m : Memory} {lo cap : Nat} (hm : Memory.wfFrom lo cap m = true) (a : Nat) (b : Byte)
    (x : Nat) : (m.write a b).read x = if x = a then b else m.read x := by
  induction m generalizing lo with
  | nil =>
    by_cases hb : b = Memory.unlisted
    · simp [Memory.write, hb, Memory.unlisted]
    · simp [Memory.write, hb, Memory.read_cons]
  | cons c m ih =>
    obtain ⟨k, v⟩ := c
    simp only [Memory.wfFrom, Bool.and_eq_true, decide_eq_true_eq] at hm
    have ih := ih hm.2
    by_cases hak : a < k
    · by_cases hb : b = Memory.unlisted
      · have hz : Memory.read ((k, v) :: m) a = 0#8 := by
          rw [Memory.read_cons, if_neg (by omega)]
          exact Memory.read_below hm.2 (by omega)
        simp only [Memory.write, if_pos hak, hb, if_true]
        by_cases hx : x = a
        · rw [if_pos hx, hx]; exact hz
        · rw [if_neg hx]
      · simp [Memory.write, hak, hb, Memory.read_cons]
    · by_cases hka : a = k
      · subst hka
        by_cases hb : b = Memory.unlisted
        · simp only [Memory.write, lt_irrefl, if_false, hb, if_true]
          by_cases hx : x = a
          · subst hx; rw [if_pos rfl]; exact Memory.read_below hm.2 (by omega)
          · rw [if_neg hx, Memory.read_cons, if_neg hx]
        · simp only [Memory.write, lt_irrefl, if_false, if_true, if_neg hb, Memory.read_cons]
          by_cases hx : x = a <;> simp [hx]
      · simp only [Memory.write, if_neg hak, if_neg hka, Memory.read_cons, ih]
        by_cases hx : x = k
        · subst hx; simp [Ne.symm hka]
        · simp [hx]

/-- A canonical buffer from `hi` up is one from any lower address up. -/
theorem Memory.wfFrom_mono {m : Memory} {lo hi cap : Nat} (hm : Memory.wfFrom hi cap m = true) (h : lo ≤ hi) :
    Memory.wfFrom lo cap m = true := by
  cases m with
  | nil => rfl
  | cons c m =>
    obtain ⟨k, v⟩ := c
    simp only [Memory.wfFrom, Bool.and_eq_true, decide_eq_true_eq] at hm ⊢
    exact ⟨⟨⟨by omega, hm.1.1.2⟩, hm.1.2⟩, hm.2⟩

/-- A write keeps the canonical form. -/
theorem Memory.write_wfFrom {m : Memory} {lo cap : Nat} (hm : Memory.wfFrom lo cap m = true) {a : Nat} (b : Byte)
    (hlo : lo ≤ a) (hcap : a < cap) : Memory.wfFrom lo cap (m.write a b) = true := by
  induction m generalizing lo with
  | nil =>
    by_cases hb : b = Memory.unlisted
    · simp [Memory.write, hb, Memory.wfFrom]
    · simp [Memory.write, hb, Memory.wfFrom, hlo, hcap]
  | cons c m ih =>
    obtain ⟨k, v⟩ := c
    simp only [Memory.wfFrom, Bool.and_eq_true, decide_eq_true_eq, bne_iff_ne, ne_eq] at hm
    obtain ⟨⟨⟨h1, h2⟩, h3⟩, h4⟩ := hm
    by_cases hak : a < k
    · by_cases hb : b = Memory.unlisted
      · simp [Memory.write, hak, hb, Memory.wfFrom, h1, h2, h3, h4]
      · simp only [Memory.write, if_pos hak, if_neg hb, Memory.wfFrom, Bool.and_eq_true, decide_eq_true_eq,
          bne_iff_ne, ne_eq]
        exact ⟨⟨⟨hlo, hcap⟩, hb⟩, ⟨⟨⟨by omega, h2⟩, h3⟩, h4⟩⟩
    · by_cases hka : a = k
      · subst hka
        by_cases hb : b = Memory.unlisted
        · simp only [Memory.write, lt_irrefl, if_false, if_true, if_pos hb]
          exact Memory.wfFrom_mono h4 (by omega)
        · simp only [Memory.write, lt_irrefl, if_false, if_true, if_neg hb, Memory.wfFrom, Bool.and_eq_true,
            decide_eq_true_eq, bne_iff_ne, ne_eq]
          exact ⟨⟨⟨hlo, hcap⟩, hb⟩, h4⟩
      · simp only [Memory.write, if_neg hak, if_neg hka, Memory.wfFrom, Bool.and_eq_true, decide_eq_true_eq,
          bne_iff_ne, ne_eq]
        exact ⟨⟨⟨h1, h2⟩, h3⟩, ih h4 (by omega)⟩

/-- A word write keeps the canonical form of a buffer of a multiple of 4 bytes (R22). -/
theorem Memory.writeWord_wf {m : Memory} {cap : Nat} (hm : m.wf cap = true) {w : Nat} (v : Word32)
    (hw : 4 * w + 4 ≤ cap) : (m.writeWord w v).wf cap = true :=
  Memory.write_wfFrom (Memory.write_wfFrom (Memory.write_wfFrom (Memory.write_wfFrom hm _ (by omega) (by omega)) _
    (by omega) (by omega)) _ (by omega) (by omega)) _ (by omega) (by omega)

/-- A word write replaces the four bytes of the word, byte lane by byte lane, and no other byte (R22, R201). -/
theorem Memory.read_writeWord {m : Memory} {cap : Nat} (hm : m.wf cap = true) {w : Nat} (v : Word32)
    (hw : 4 * w + 4 ≤ cap) (x : Nat) :
    (m.writeWord w v).read x = if x / 4 = w then byteLane v (x % 4) else m.read x := by
  have h1 := Memory.write_wfFrom hm (a := 4 * w) (byteLane v 0) (by omega) (by omega)
  have h2 := Memory.write_wfFrom h1 (a := 4 * w + 1) (byteLane v 1) (by omega) (by omega)
  have h3 := Memory.write_wfFrom h2 (a := 4 * w + 2) (byteLane v 2) (by omega) (by omega)
  rw [Memory.writeWord, Memory.read_write h3, Memory.read_write h2, Memory.read_write h1, Memory.read_write hm]
  by_cases hx : x / 4 = w
  · have : x % 4 = 0 ∨ x % 4 = 1 ∨ x % 4 = 2 ∨ x % 4 = 3 := by omega
    rcases this with h | h | h | h
    · rw [if_neg (by omega), if_neg (by omega), if_neg (by omega), if_pos (by omega), if_pos hx, h]
    · rw [if_neg (by omega), if_neg (by omega), if_pos (by omega), if_pos hx, h]
    · rw [if_neg (by omega), if_pos (by omega), if_pos hx, h]
    · rw [if_pos (by omega), if_pos hx, h]
  · rw [if_neg (by omega), if_neg (by omega), if_neg (by omega), if_neg (by omega), if_neg hx]

/-- Two canonical buffers that read alike everywhere are equal: the form is canonical. -/
theorem Memory.eq_of_read {m n : Memory} {lo cap : Nat} (hm : Memory.wfFrom lo cap m = true)
    (hn : Memory.wfFrom lo cap n = true) (h : ∀ x, m.read x = n.read x) : m = n := by
  induction m generalizing n lo with
  | nil =>
    cases n with
    | nil => rfl
    | cons c n =>
      obtain ⟨k, v⟩ := c
      simp only [Memory.wfFrom, Bool.and_eq_true, bne_iff_ne, ne_eq] at hn
      have := h k
      rw [Memory.read_cons, if_pos rfl] at this
      exact absurd this.symm hn.1.2
  | cons c m ih =>
    obtain ⟨k, v⟩ := c
    have hm' := hm
    simp only [Memory.wfFrom, Bool.and_eq_true, decide_eq_true_eq, bne_iff_ne, ne_eq] at hm
    cases n with
    | nil =>
      have := h k
      rw [Memory.read_cons, if_pos rfl] at this
      exact absurd this hm.1.2
    | cons d n =>
      obtain ⟨j, u⟩ := d
      have hn' := hn
      simp only [Memory.wfFrom, Bool.and_eq_true, decide_eq_true_eq, bne_iff_ne, ne_eq] at hn
      have hkj : k = j := by
        rcases Nat.lt_trichotomy k j with hlt | heq | hgt
        · have := h k
          rw [Memory.read_cons, if_pos rfl, Memory.read_cons, if_neg (by omega),
            Memory.read_below hn.2 (by omega)] at this
          exact absurd this hm.1.2
        · exact heq
        · have := h j
          rw [Memory.read_cons, if_neg (by omega), Memory.read_below hm.2 (by omega), Memory.read_cons,
            if_pos rfl] at this
          exact absurd this.symm hn.1.2
      subst hkj
      have hvu : v = u := by
        have := h k
        rwa [Memory.read_cons, if_pos rfl, Memory.read_cons, if_pos rfl] at this
      subst hvu
      congr 1
      refine ih hm.2 hn.2 fun x => ?_
      by_cases hx : x = k
      · subst hx; rw [Memory.read_below hm.2 (by omega), Memory.read_below hn.2 (by omega)]
      · have := h x
        rwa [Memory.read_cons, if_neg hx, Memory.read_cons, if_neg hx] at this

/-- The empty buffer, every byte 0, is canonical (R28). -/
@[simp] theorem Memory.wf_nil (cap : Nat) : Memory.wf cap [] = true := rfl

/-- A slice has the length asked for. -/
@[simp] theorem Memory.slice_length (m : Memory) (n : Nat) : (m.slice n).length = n := by
  simp [Memory.slice]

/-- A slice depends only on the bytes below its length (U9). -/
theorem Memory.slice_congr {m m' : Memory} {n : Nat} (h : ∀ x < n, m.read x = m'.read x) :
    m.slice n = m'.slice n := by
  simp only [Memory.slice]
  exact List.map_congr_left fun x hx => h x (List.mem_range.1 hx)

end Sys2Proof.Machine
end

