-- ==== Sys2Proof/Laws/Hash.lean ====
section
/-! SUPPORT. The digest length of every hash function (R80 column `L`), which is all the truncation step needs of them
(R84). -/

namespace Sys2Proof.Machine

theorem wordBytes_length {w : Nat} (ws : List (BitVec w)) : (wordBytes ws).length = ws.length * (w / 8) := by
  simp [wordBytes, List.length_flatMap]

theorem sha1_length (msg : List Byte) : (sha1 msg).length = 20 := by
  simp [sha1, wordBytes_length]

theorem sha2_length {w : Nat} (p : Sha2Core w) (iv : Sha2Regs w) (msg : List Byte) :
    (sha2 p iv msg).length = 8 * (w / 8) := by
  simp [sha2, wordBytes_length]

theorem Lanes.build_length (f : Nat → Nat → Word64) : (Lanes.build f).length = 25 := by
  simp [Lanes.build]

theorem keccakF_length (a : Lanes) : (keccakF a).length = 25 := by
  have h : ∀ (rcs : List Word64) (a : Lanes), rcs ≠ [] →
      (rcs.foldl (fun a rc => keccakIota rc (keccakChi (keccakRhoPi (keccakTheta a)))) a).length = 25 := by
    intro rcs
    induction rcs with
    | nil => intro _ h; exact absurd rfl h
    | cons rc rcs ih =>
      intro a _
      cases rcs with
      | nil => simp [keccakIota, Lanes.build_length]
      | cons rc' rcs => exact ih _ (by simp)
  exact h keccakRC a (by decide)

theorem sha3_length {r len : Nat} (hlen : len ≤ 200) (msg : List Byte) : (sha3 r len msg).length = len := by
  have h : ∀ (bs : List (List Byte)) (a : Lanes), a.length = 25 →
      (bs.foldl (fun a block => keccakF (keccakAbsorb a block)) a).length = 25 := by
    intro bs
    induction bs with
    | nil => intro a ha; exact ha
    | cons b bs ih => intro a _; exact ih _ (keccakF_length _)
  have h25 := h (blocksOf r (sha3Pad r msg)) (List.replicate 25 0#64) (by simp)
  have hb : ∀ a : Lanes, (laneBytes a).length = 8 * a.length := by
    intro a; simp [laneBytes, List.length_flatMap, Nat.mul_comm]
  simp only [sha3, List.length_take, hb, h25]
  omega

/-- Every hash function gives `L` bytes (R80, R86). -/
theorem hashFn_length (a : Alg) (msg : List Byte) : (hashFn a msg).length = digestLen a := by
  cases a <;> simp [hashFn, digestLen, sha1_length, sha224, sha256, sha384, sha512, sha512t224, sha512t256, sha2_length,
    sha3x224, sha3x256, sha3x384, sha3x512, sha3_length]

/-- The smallest digest is SHA-1's, and a digest is shorter than its block (R80, R84). -/
theorem digestLen_bounds (a : Alg) : 20 ≤ digestLen a ∧ digestLen a < blockSize a := by
  cases a <;> decide

end Sys2Proof.Machine
end

