-- ==== Sys2Proof/Laws/Otp.lean ====
section
/-! SUPPORT. The laws of the code function and of the window loop: every code exists (R84, R161), is below the modulus
(R163), and has the string of R164; one turn of the loop (R183). -/

namespace Sys2Proof.Machine

/-- An HMAC has the digest length of its algorithm (R82, R84). -/
theorem hmac_length (a : Alg) (key msg : List Byte) : (hmac a key msg).length = digestLen a := hashFn_length _ _

/-- The bound check of R161 never fails on a digest of 20 bytes or more. -/
theorem truncOffset_of_length {hash : List Byte} (h : 20 ≤ hash.length) :
    ∃ b, hash.getLast? = some b ∧ truncOffset hash = some (b.toNat % 16) := by
  cases hl : hash.getLast? with
  | none => rw [List.getLast?_eq_none_iff] at hl; simp [hl] at h
  | some b => exact ⟨b, rfl, by simp only [truncOffset, hl]; rw [if_pos (by omega)]⟩

/-- Everything `hotpCode` can answer: a code below the modulus with its string (R160 to R164). -/
theorem hotpCode_eq (a : Alg) (key : List Byte) (counter : Word64) :
    ∃ code, hotpCode a key counter = some (code, format6 code) ∧ code < Config.modulus := by
  have hl := hmac_length a key (encodeCounter counter)
  have hd := digestLen_bounds a
  obtain ⟨b, -, hb⟩ := truncOffset_of_length (hash := hmac a key (encodeCounter counter)) (by omega)
  exact ⟨_, by simp only [hotpCode, codeOfDigest, hb]; rfl, Nat.mod_lt _ (by decide)⟩

/-- A code string has six characters (R164). -/
@[simp] theorem format6_length (code : Nat) : (format6 code).length = 6 := by simp [format6, Config.digits]

/-- The codec fails exactly on a negative candidate (R152, R184). -/
theorem codecWindow_sub (window : Word64) (i : Nat) :
    codecWindow ((window.toNat : Int) - i) =
      if i ≤ window.toNat then some (BitVec.ofNat 64 (window.toNat - i)) else none := by
  unfold codecWindow
  by_cases h : i ≤ window.toNat
  · rw [if_neg (by omega), if_pos h, ← Int.natCast_sub h, BitVec.ofInt_natCast]
  · rw [if_pos (by omega), if_neg h]

/-- The candidate `i` windows back is the presented code's window (R183, R185). -/
def matchesAt (a : Alg) (key : List Byte) (window : Word64) (plen : Word32) (pcode : BitVec 48) (i : Nat) : Bool :=
  match totpCode a key (BitVec.ofNat 64 (window.toNat - i)) with
  | none => false
  | some (_, str) => codeEqual plen pcode str

/-- One turn of the loop (R183). -/
theorem verifyFrom_succ (a : Alg) (key : List Byte) (window : Word64) (plen : Word32) (pcode : BitVec 48)
    (left i : Nat) :
    verifyFrom a key window plen pcode (left + 1) i =
      if i ≤ window.toNat then
        (if matchesAt a key window plen pcode i then .hit else verifyFrom a key window plen pcode left (i + 1))
      else .under i := by
  obtain ⟨code, hc, -⟩ := hotpCode_eq a key (BitVec.ofNat 64 (window.toNat - i))
  simp only [verifyFrom, codecWindow_sub, matchesAt, totpCode]
  by_cases h : i ≤ window.toNat
  · simp only [if_pos h, hc]
  · simp only [if_neg h]

/-- The loop never finds a candidate without a code. -/
theorem verifyFrom_ne_noCode (a : Alg) (key : List Byte) (window : Word64) (plen : Word32) (pcode : BitVec 48)
    (left i : Nat) : verifyFrom a key window plen pcode left i ≠ .noCode := by
  induction left generalizing i with
  | zero => simp [verifyFrom]
  | succ left ih =>
    rw [verifyFrom_succ]
    split
    · split
      · simp
      · exact ih (i + 1)
    · simp

end Sys2Proof.Machine
end

