-- ==== Sys2Proof/Laws/State.lean ====
section
/-! SUPPORT. One lemma per field of the state for each shared operation, true by unfolding: what the operation writes
and what it leaves. -/

namespace Sys2Proof.Machine

variable (s : State)

@[simp] theorem wipe_cfg : (wipe s).cfg = s.cfg := rfl
@[simp] theorem wipe_status : (wipe s).status = s.status := rfl
@[simp] theorem wipe_errInfo : (wipe s).errInfo = s.errInfo := rfl
@[simp] theorem wipe_keyLen : (wipe s).keyLen = 0#32 := rfl
@[simp] theorem wipe_counter : (wipe s).counter = s.counter := rfl
@[simp] theorem wipe_time : (wipe s).time = s.time := rfl
@[simp] theorem wipe_tolerance : (wipe s).tolerance = s.tolerance := rfl
@[simp] theorem wipe_pcodeLen : (wipe s).pcodeLen = s.pcodeLen := rfl
@[simp] theorem wipe_pcode : (wipe s).pcode = s.pcode := rfl
@[simp] theorem wipe_codeVal : (wipe s).codeVal = s.codeVal := rfl
@[simp] theorem wipe_codeAscii : (wipe s).codeAscii = s.codeAscii := rfl
@[simp] theorem wipe_key : (wipe s).key = [] := rfl
@[simp] theorem wipe_snap : (wipe s).snap = none := rfl
@[simp] theorem wipe_bus : (wipe s).bus = s.bus := rfl
@[simp] theorem wipe_reply : (wipe s).reply = s.reply := rfl

@[simp] theorem raise_cfg (e : ErrCode) (info : Word32) (site : Site) : (raise e info site s).cfg = s.cfg := rfl
@[simp] theorem raise_status (e : ErrCode) (info : Word32) (site : Site) : (raise e info site s).status = s.status.raise e site := rfl
@[simp] theorem raise_errInfo (e : ErrCode) (info : Word32) (site : Site) : (raise e info site s).errInfo = info := rfl
@[simp] theorem raise_keyLen (e : ErrCode) (info : Word32) (site : Site) : (raise e info site s).keyLen = 0#32 := rfl
@[simp] theorem raise_counter (e : ErrCode) (info : Word32) (site : Site) : (raise e info site s).counter = s.counter := rfl
@[simp] theorem raise_time (e : ErrCode) (info : Word32) (site : Site) : (raise e info site s).time = s.time := rfl
@[simp] theorem raise_tolerance (e : ErrCode) (info : Word32) (site : Site) : (raise e info site s).tolerance = s.tolerance := rfl
@[simp] theorem raise_pcodeLen (e : ErrCode) (info : Word32) (site : Site) : (raise e info site s).pcodeLen = s.pcodeLen := rfl
@[simp] theorem raise_pcode (e : ErrCode) (info : Word32) (site : Site) : (raise e info site s).pcode = s.pcode := rfl
@[simp] theorem raise_codeVal (e : ErrCode) (info : Word32) (site : Site) : (raise e info site s).codeVal = 0#32 := rfl
@[simp] theorem raise_codeAscii (e : ErrCode) (info : Word32) (site : Site) : (raise e info site s).codeAscii = 0#64 := rfl
@[simp] theorem raise_key (e : ErrCode) (info : Word32) (site : Site) : (raise e info site s).key = [] := rfl
@[simp] theorem raise_snap (e : ErrCode) (info : Word32) (site : Site) : (raise e info site s).snap = none := rfl
@[simp] theorem raise_bus (e : ErrCode) (info : Word32) (site : Site) : (raise e info site s).bus = s.bus := rfl
@[simp] theorem raise_reply (e : ErrCode) (info : Word32) (site : Site) : (raise e info site s).reply = s.reply := rfl

@[simp] theorem beginCall_cfg (op : BitVec 4) : (beginCall op s).cfg = s.cfg := rfl
@[simp] theorem beginCall_status (op : BitVec 4) : (beginCall op s).status = s.status.begin op := rfl
@[simp] theorem beginCall_errInfo (op : BitVec 4) : (beginCall op s).errInfo = 0#32 := rfl
@[simp] theorem beginCall_keyLen (op : BitVec 4) : (beginCall op s).keyLen = s.keyLen := rfl
@[simp] theorem beginCall_counter (op : BitVec 4) : (beginCall op s).counter = s.counter := rfl
@[simp] theorem beginCall_time (op : BitVec 4) : (beginCall op s).time = s.time := rfl
@[simp] theorem beginCall_tolerance (op : BitVec 4) : (beginCall op s).tolerance = s.tolerance := rfl
@[simp] theorem beginCall_pcodeLen (op : BitVec 4) : (beginCall op s).pcodeLen = s.pcodeLen := rfl
@[simp] theorem beginCall_pcode (op : BitVec 4) : (beginCall op s).pcode = s.pcode := rfl
@[simp] theorem beginCall_codeVal (op : BitVec 4) : (beginCall op s).codeVal = 0#32 := rfl
@[simp] theorem beginCall_codeAscii (op : BitVec 4) : (beginCall op s).codeAscii = 0#64 := rfl
@[simp] theorem beginCall_key (op : BitVec 4) : (beginCall op s).key = s.key := rfl
@[simp] theorem beginCall_snap (op : BitVec 4) : (beginCall op s).snap = s.snap := rfl
@[simp] theorem beginCall_bus (op : BitVec 4) : (beginCall op s).bus = s.bus := rfl
@[simp] theorem beginCall_reply (op : BitVec 4) : (beginCall op s).reply = s.reply := rfl

@[simp] theorem enterBusy_cfg (sn : Snap) : (enterBusy sn s).cfg = s.cfg := rfl
@[simp] theorem enterBusy_status (sn : Snap) : (enterBusy sn s).status = s.status.enterBusy := rfl
@[simp] theorem enterBusy_errInfo (sn : Snap) : (enterBusy sn s).errInfo = s.errInfo := rfl
@[simp] theorem enterBusy_keyLen (sn : Snap) : (enterBusy sn s).keyLen = s.keyLen := rfl
@[simp] theorem enterBusy_counter (sn : Snap) : (enterBusy sn s).counter = s.counter := rfl
@[simp] theorem enterBusy_time (sn : Snap) : (enterBusy sn s).time = s.time := rfl
@[simp] theorem enterBusy_tolerance (sn : Snap) : (enterBusy sn s).tolerance = s.tolerance := rfl
@[simp] theorem enterBusy_pcodeLen (sn : Snap) : (enterBusy sn s).pcodeLen = s.pcodeLen := rfl
@[simp] theorem enterBusy_pcode (sn : Snap) : (enterBusy sn s).pcode = s.pcode := rfl
@[simp] theorem enterBusy_codeVal (sn : Snap) : (enterBusy sn s).codeVal = s.codeVal := rfl
@[simp] theorem enterBusy_codeAscii (sn : Snap) : (enterBusy sn s).codeAscii = s.codeAscii := rfl
@[simp] theorem enterBusy_key (sn : Snap) : (enterBusy sn s).key = s.key := rfl
@[simp] theorem enterBusy_snap (sn : Snap) : (enterBusy sn s).snap = some sn := rfl
@[simp] theorem enterBusy_bus (sn : Snap) : (enterBusy sn s).bus = s.bus := rfl
@[simp] theorem enterBusy_reply (sn : Snap) : (enterBusy sn s).reply = s.reply := rfl

@[simp] theorem publishCode_cfg (code : Nat) (str : List Byte) : (publishCode code str s).cfg = s.cfg := rfl
@[simp] theorem publishCode_status (code : Nat) (str : List Byte) : (publishCode code str s).status = s.status.finish := rfl
@[simp] theorem publishCode_errInfo (code : Nat) (str : List Byte) : (publishCode code str s).errInfo = s.errInfo := rfl
@[simp] theorem publishCode_keyLen (code : Nat) (str : List Byte) : (publishCode code str s).keyLen = 0#32 := rfl
@[simp] theorem publishCode_counter (code : Nat) (str : List Byte) : (publishCode code str s).counter = s.counter := rfl
@[simp] theorem publishCode_time (code : Nat) (str : List Byte) : (publishCode code str s).time = s.time := rfl
@[simp] theorem publishCode_tolerance (code : Nat) (str : List Byte) : (publishCode code str s).tolerance = s.tolerance := rfl
@[simp] theorem publishCode_pcodeLen (code : Nat) (str : List Byte) : (publishCode code str s).pcodeLen = s.pcodeLen := rfl
@[simp] theorem publishCode_pcode (code : Nat) (str : List Byte) : (publishCode code str s).pcode = s.pcode := rfl
@[simp] theorem publishCode_codeVal (code : Nat) (str : List Byte) : (publishCode code str s).codeVal = BitVec.ofNat 32 code := rfl
@[simp] theorem publishCode_codeAscii (code : Nat) (str : List Byte) : (publishCode code str s).codeAscii = packString str := rfl
@[simp] theorem publishCode_key (code : Nat) (str : List Byte) : (publishCode code str s).key = [] := rfl
@[simp] theorem publishCode_snap (code : Nat) (str : List Byte) : (publishCode code str s).snap = none := rfl
@[simp] theorem publishCode_bus (code : Nat) (str : List Byte) : (publishCode code str s).bus = s.bus := rfl
@[simp] theorem publishCode_reply (code : Nat) (str : List Byte) : (publishCode code str s).reply = s.reply := rfl

@[simp] theorem publishMatch_cfg (b : Bool) : (publishMatch b s).cfg = s.cfg := rfl
@[simp] theorem publishMatch_status (b : Bool) : (publishMatch b s).status = s.status.finishMatch b := rfl
@[simp] theorem publishMatch_errInfo (b : Bool) : (publishMatch b s).errInfo = s.errInfo := rfl
@[simp] theorem publishMatch_keyLen (b : Bool) : (publishMatch b s).keyLen = 0#32 := rfl
@[simp] theorem publishMatch_counter (b : Bool) : (publishMatch b s).counter = s.counter := rfl
@[simp] theorem publishMatch_time (b : Bool) : (publishMatch b s).time = s.time := rfl
@[simp] theorem publishMatch_tolerance (b : Bool) : (publishMatch b s).tolerance = s.tolerance := rfl
@[simp] theorem publishMatch_pcodeLen (b : Bool) : (publishMatch b s).pcodeLen = s.pcodeLen := rfl
@[simp] theorem publishMatch_pcode (b : Bool) : (publishMatch b s).pcode = s.pcode := rfl
@[simp] theorem publishMatch_codeVal (b : Bool) : (publishMatch b s).codeVal = s.codeVal := rfl
@[simp] theorem publishMatch_codeAscii (b : Bool) : (publishMatch b s).codeAscii = s.codeAscii := rfl
@[simp] theorem publishMatch_key (b : Bool) : (publishMatch b s).key = [] := rfl
@[simp] theorem publishMatch_snap (b : Bool) : (publishMatch b s).snap = none := rfl
@[simp] theorem publishMatch_bus (b : Bool) : (publishMatch b s).bus = s.bus := rfl
@[simp] theorem publishMatch_reply (b : Bool) : (publishMatch b s).reply = s.reply := rfl

@[simp] theorem clear_cfg : (clear s).cfg = s.cfg := rfl
@[simp] theorem clear_status : (clear s).status = Status.reset := rfl
@[simp] theorem clear_errInfo : (clear s).errInfo = 0#32 := rfl
@[simp] theorem clear_keyLen : (clear s).keyLen = 0#32 := rfl
@[simp] theorem clear_counter : (clear s).counter = s.counter := rfl
@[simp] theorem clear_time : (clear s).time = s.time := rfl
@[simp] theorem clear_tolerance : (clear s).tolerance = s.tolerance := rfl
@[simp] theorem clear_pcodeLen : (clear s).pcodeLen = s.pcodeLen := rfl
@[simp] theorem clear_pcode : (clear s).pcode = s.pcode := rfl
@[simp] theorem clear_codeVal : (clear s).codeVal = 0#32 := rfl
@[simp] theorem clear_codeAscii : (clear s).codeAscii = 0#64 := rfl
@[simp] theorem clear_key : (clear s).key = [] := rfl
@[simp] theorem clear_snap : (clear s).snap = none := rfl
@[simp] theorem clear_bus : (clear s).bus = s.bus := rfl
@[simp] theorem clear_reply : (clear s).reply = s.reply := rfl

@[simp] theorem dropWrite_cfg : (dropWrite s).cfg = s.cfg := rfl
@[simp] theorem dropWrite_status : (dropWrite s).status = s.status.drop := rfl
@[simp] theorem dropWrite_errInfo : (dropWrite s).errInfo = s.errInfo := rfl
@[simp] theorem dropWrite_keyLen : (dropWrite s).keyLen = s.keyLen := rfl
@[simp] theorem dropWrite_counter : (dropWrite s).counter = s.counter := rfl
@[simp] theorem dropWrite_time : (dropWrite s).time = s.time := rfl
@[simp] theorem dropWrite_tolerance : (dropWrite s).tolerance = s.tolerance := rfl
@[simp] theorem dropWrite_pcodeLen : (dropWrite s).pcodeLen = s.pcodeLen := rfl
@[simp] theorem dropWrite_pcode : (dropWrite s).pcode = s.pcode := rfl
@[simp] theorem dropWrite_codeVal : (dropWrite s).codeVal = s.codeVal := rfl
@[simp] theorem dropWrite_codeAscii : (dropWrite s).codeAscii = s.codeAscii := rfl
@[simp] theorem dropWrite_key : (dropWrite s).key = s.key := rfl
@[simp] theorem dropWrite_snap : (dropWrite s).snap = s.snap := rfl
@[simp] theorem dropWrite_bus : (dropWrite s).bus = s.bus := rfl
@[simp] theorem dropWrite_reply : (dropWrite s).reply = s.reply := rfl

@[simp] theorem resetBlock_cfg : (resetBlock s).cfg = s.cfg := rfl
@[simp] theorem resetBlock_status : (resetBlock s).status = Status.reset := rfl
@[simp] theorem resetBlock_errInfo : (resetBlock s).errInfo = 0#32 := rfl
@[simp] theorem resetBlock_keyLen : (resetBlock s).keyLen = 0#32 := rfl
@[simp] theorem resetBlock_counter : (resetBlock s).counter = 0#64 := rfl
@[simp] theorem resetBlock_time : (resetBlock s).time = 0#64 := rfl
@[simp] theorem resetBlock_tolerance : (resetBlock s).tolerance = 0#32 := rfl
@[simp] theorem resetBlock_pcodeLen : (resetBlock s).pcodeLen = 0#32 := rfl
@[simp] theorem resetBlock_pcode : (resetBlock s).pcode = 0#64 := rfl
@[simp] theorem resetBlock_codeVal : (resetBlock s).codeVal = 0#32 := rfl
@[simp] theorem resetBlock_codeAscii : (resetBlock s).codeAscii = 0#64 := rfl
@[simp] theorem resetBlock_key : (resetBlock s).key = [] := rfl
@[simp] theorem resetBlock_snap : (resetBlock s).snap = none := rfl
@[simp] theorem resetBlock_bus : (resetBlock s).bus = s.bus := rfl
@[simp] theorem resetBlock_reply : (resetBlock s).reply = .none := rfl

@[simp] theorem popEvent_cfg (rest : List BusEvent) : (popEvent rest s).cfg = s.cfg := rfl
@[simp] theorem popEvent_status (rest : List BusEvent) : (popEvent rest s).status = s.status := rfl
@[simp] theorem popEvent_errInfo (rest : List BusEvent) : (popEvent rest s).errInfo = s.errInfo := rfl
@[simp] theorem popEvent_keyLen (rest : List BusEvent) : (popEvent rest s).keyLen = s.keyLen := rfl
@[simp] theorem popEvent_counter (rest : List BusEvent) : (popEvent rest s).counter = s.counter := rfl
@[simp] theorem popEvent_time (rest : List BusEvent) : (popEvent rest s).time = s.time := rfl
@[simp] theorem popEvent_tolerance (rest : List BusEvent) : (popEvent rest s).tolerance = s.tolerance := rfl
@[simp] theorem popEvent_pcodeLen (rest : List BusEvent) : (popEvent rest s).pcodeLen = s.pcodeLen := rfl
@[simp] theorem popEvent_pcode (rest : List BusEvent) : (popEvent rest s).pcode = s.pcode := rfl
@[simp] theorem popEvent_codeVal (rest : List BusEvent) : (popEvent rest s).codeVal = s.codeVal := rfl
@[simp] theorem popEvent_codeAscii (rest : List BusEvent) : (popEvent rest s).codeAscii = s.codeAscii := rfl
@[simp] theorem popEvent_key (rest : List BusEvent) : (popEvent rest s).key = s.key := rfl
@[simp] theorem popEvent_snap (rest : List BusEvent) : (popEvent rest s).snap = s.snap := rfl
@[simp] theorem popEvent_bus (rest : List BusEvent) : (popEvent rest s).bus = rest := rfl
@[simp] theorem popEvent_reply (rest : List BusEvent) : (popEvent rest s).reply = s.reply := rfl

@[simp] theorem answer_cfg (r : Reply) : (answer r s).cfg = s.cfg := rfl
@[simp] theorem answer_status (r : Reply) : (answer r s).status = s.status := rfl
@[simp] theorem answer_errInfo (r : Reply) : (answer r s).errInfo = s.errInfo := rfl
@[simp] theorem answer_keyLen (r : Reply) : (answer r s).keyLen = s.keyLen := rfl
@[simp] theorem answer_counter (r : Reply) : (answer r s).counter = s.counter := rfl
@[simp] theorem answer_time (r : Reply) : (answer r s).time = s.time := rfl
@[simp] theorem answer_tolerance (r : Reply) : (answer r s).tolerance = s.tolerance := rfl
@[simp] theorem answer_pcodeLen (r : Reply) : (answer r s).pcodeLen = s.pcodeLen := rfl
@[simp] theorem answer_pcode (r : Reply) : (answer r s).pcode = s.pcode := rfl
@[simp] theorem answer_codeVal (r : Reply) : (answer r s).codeVal = s.codeVal := rfl
@[simp] theorem answer_codeAscii (r : Reply) : (answer r s).codeAscii = s.codeAscii := rfl
@[simp] theorem answer_key (r : Reply) : (answer r s).key = s.key := rfl
@[simp] theorem answer_snap (r : Reply) : (answer r s).snap = s.snap := rfl
@[simp] theorem answer_bus (r : Reply) : (answer r s).bus = s.bus := rfl
@[simp] theorem answer_reply (r : Reply) : (answer r s).reply = r := rfl

/-! ### the fields of `STATUS` -/

section
variable (st : Status)

@[simp] theorem Status.begin_phase (o : BitVec 4) : (st.begin o).phase = st.phase := rfl
@[simp] theorem Status.begin_matched (o : BitVec 4) : (st.begin o).matched = false := rfl
@[simp] theorem Status.begin_dropped (o : BitVec 4) : (st.begin o).dropped = st.dropped := rfl
@[simp] theorem Status.begin_err (o : BitVec 4) : (st.begin o).err = .noError := rfl
@[simp] theorem Status.begin_op (o : BitVec 4) : (st.begin o).op = o := rfl
@[simp] theorem Status.begin_site (o : BitVec 4) : (st.begin o).site = .entry := rfl

@[simp] theorem Status.raise_phase (e : ErrCode) (x : Site) : (st.raise e x).phase = .error := rfl
@[simp] theorem Status.raise_matched (e : ErrCode) (x : Site) : (st.raise e x).matched = false := rfl
@[simp] theorem Status.raise_dropped (e : ErrCode) (x : Site) : (st.raise e x).dropped = st.dropped := rfl
@[simp] theorem Status.raise_err (e : ErrCode) (x : Site) : (st.raise e x).err = e := rfl
@[simp] theorem Status.raise_op (e : ErrCode) (x : Site) : (st.raise e x).op = st.op := rfl
@[simp] theorem Status.raise_site (e : ErrCode) (x : Site) : (st.raise e x).site = x := rfl

@[simp] theorem Status.enterBusy_phase : (st.enterBusy).phase = .busy := rfl
@[simp] theorem Status.enterBusy_matched : (st.enterBusy).matched = st.matched := rfl
@[simp] theorem Status.enterBusy_dropped : (st.enterBusy).dropped = st.dropped := rfl
@[simp] theorem Status.enterBusy_err : (st.enterBusy).err = st.err := rfl
@[simp] theorem Status.enterBusy_op : (st.enterBusy).op = st.op := rfl
@[simp] theorem Status.enterBusy_site : (st.enterBusy).site = st.site := rfl

@[simp] theorem Status.finish_phase : (st.finish).phase = .done := rfl
@[simp] theorem Status.finish_matched : (st.finish).matched = st.matched := rfl
@[simp] theorem Status.finish_dropped : (st.finish).dropped = st.dropped := rfl
@[simp] theorem Status.finish_err : (st.finish).err = st.err := rfl
@[simp] theorem Status.finish_op : (st.finish).op = st.op := rfl
@[simp] theorem Status.finish_site : (st.finish).site = st.site := rfl

@[simp] theorem Status.finishMatch_phase (b : Bool) : (st.finishMatch b).phase = .done := rfl
@[simp] theorem Status.finishMatch_matched (b : Bool) : (st.finishMatch b).matched = b := rfl
@[simp] theorem Status.finishMatch_dropped (b : Bool) : (st.finishMatch b).dropped = st.dropped := rfl
@[simp] theorem Status.finishMatch_err (b : Bool) : (st.finishMatch b).err = st.err := rfl
@[simp] theorem Status.finishMatch_op (b : Bool) : (st.finishMatch b).op = st.op := rfl
@[simp] theorem Status.finishMatch_site (b : Bool) : (st.finishMatch b).site = st.site := rfl

@[simp] theorem Status.drop_phase : (st.drop).phase = st.phase := rfl
@[simp] theorem Status.drop_matched : (st.drop).matched = st.matched := rfl
@[simp] theorem Status.drop_dropped : (st.drop).dropped = true := rfl
@[simp] theorem Status.drop_err : (st.drop).err = st.err := rfl
@[simp] theorem Status.drop_op : (st.drop).op = st.op := rfl
@[simp] theorem Status.drop_site : (st.drop).site = st.site := rfl

@[simp] theorem Status.reset_phase : Status.reset.phase = .idle := rfl
@[simp] theorem Status.reset_matched : Status.reset.matched = false := rfl
@[simp] theorem Status.reset_dropped : Status.reset.dropped = false := rfl
@[simp] theorem Status.reset_err : Status.reset.err = .noError := rfl
@[simp] theorem Status.reset_op : Status.reset.op = 0#4 := rfl
@[simp] theorem Status.reset_site : Status.reset.site = .entry := rfl

end

/-! ### the operands, which most operations leave alone -/

/-- The secret depends on the key buffer and its length only. -/
theorem secret_congr {s t : State} (hk : s.key = t.key) (hl : s.keyLen = t.keyLen) : secret s = secret t := by
  simp only [secret, hk, hl]

/-- The key length check depends on the length and the capacity only. -/
theorem keyLenLegal_congr {s t : State} (hl : s.keyLen = t.keyLen) (hc : s.cfg = t.cfg) :
    keyLenLegal s = keyLenLegal t := by
  simp only [keyLenLegal, hl, hc]

/-- A new call does not touch the operands (R207). -/
@[simp] theorem secret_beginCall (op : BitVec 4) : secret (beginCall op s) = secret s := rfl
@[simp] theorem keyLenLegal_beginCall (op : BitVec 4) : keyLenLegal (beginCall op s) = keyLenLegal s := rfl

/-! ### the two guards -/

/-- A command or write accepted because the block is not BUSY (R208). -/
theorem whenAccepted_of_not_busy {call : State → State} (h : s.status.phase ≠ .busy) :
    whenAccepted call s = .next (call s) := by
  simp only [whenAccepted, if_neg h]

/-- A command or write dropped because the block is BUSY (R205). -/
theorem whenAccepted_of_busy {call : State → State} (h : s.status.phase = .busy) :
    whenAccepted call s = .next (dropWrite s) := by
  simp only [whenAccepted, if_pos h]

/-- Everything a guarded write can do: it always answers a next state. -/
theorem whenAccepted_cases {call : State → State} :
    (s.status.phase = .busy ∧ whenAccepted call s = .next (dropWrite s)) ∨
      (s.status.phase ≠ .busy ∧ whenAccepted call s = .next (call s)) := by
  by_cases h : s.status.phase = .busy
  · exact .inl ⟨h, whenAccepted_of_busy s h⟩
  · exact .inr ⟨h, whenAccepted_of_not_busy s h⟩

/-- Everything `enterCall` can do: the first failing check raises its error, and with none failing the call is BUSY
(R226, R207). -/
theorem enterCall_cases (op : BitVec 4) (alg : Nat) (bad : Option (ErrCode × Word32)) (snapOf : Alg → Snap) :
    (resolve alg = none ∧
      enterCall op alg bad snapOf s = raise .invalidAlgorithm (BitVec.ofNat 32 alg) .entry (beginCall op s)) ∨
    (∃ a, resolve alg = some a ∧ keyLenLegal s = false ∧
      enterCall op alg bad snapOf s = raise .invalidKey s.keyLen .entry (beginCall op s)) ∨
    (∃ a e info, resolve alg = some a ∧ keyLenLegal s = true ∧ bad = some (e, info) ∧
      enterCall op alg bad snapOf s = raise e info .entry (beginCall op s)) ∨
    (∃ a, resolve alg = some a ∧ keyLenLegal s = true ∧ bad = none ∧
      enterCall op alg bad snapOf s = enterBusy (snapOf a) (beginCall op s)) := by
  cases ha : resolve alg with
  | none => exact .inl ⟨rfl, by simp [enterCall, ha]⟩
  | some a =>
    cases hk : keyLenLegal s with
    | false => exact .inr (.inl ⟨a, rfl, rfl, by simp [enterCall, ha, hk]⟩)
    | true =>
      cases bad with
      | none => exact .inr (.inr (.inr ⟨a, rfl, rfl, rfl, by simp [enterCall, ha, hk]⟩))
      | some p => exact .inr (.inr (.inl ⟨a, p.1, p.2, rfl, rfl, rfl, by simp [enterCall, ha, hk]⟩))

end Sys2Proof.Machine
end

