-- ==== Sys2Proof/Laws/Exec.lean ====
section
/-! SUPPORT. Everything a command, `Complete`, an access and a step can do, said once: later proofs cite these and never
unfold the meanings. -/

namespace Sys2Proof.Machine

/-- How a call begins at an accepted `CMD` write, for a command of opcode `op`: an entry check fails, or the call is
BUSY with a snapshot that agrees with the registers. -/
inductive Entered (s : State) : State → Prop
  | failed (op : BitVec 4) (e : ErrCode) (info : Word32) (he : e ≠ .noError) (ht : e ≠ .invalidTolerance) :
      Entered s (raise e info .entry (beginCall op s))
  | started (sn : Snap) (hk : keyLenLegal s = true) (ha : sn.Agrees (enterBusy sn (beginCall sn.op s))) :
      Entered s (enterBusy sn (beginCall sn.op s))

theorem enterCall_entered {s : State} {op : BitVec 4} {alg : Nat} {bad : Option (ErrCode × Word32)}
    {snapOf : Alg → Snap} (hbad : ∀ e info, bad = some (e, info) → e ≠ .noError ∧ e ≠ .invalidTolerance)
    (hop : ∀ a, (snapOf a).op = op)
    (hsn : ∀ a, bad = none → (snapOf a).Agrees (enterBusy (snapOf a) (beginCall (snapOf a).op s))) :
    Entered s (enterCall op alg bad snapOf s) := by
  obtain ⟨-, h⟩ | ⟨a, -, -, h⟩ | ⟨a, e, info, -, -, hb, h⟩ | ⟨a, -, hk, hb, h⟩ := enterCall_cases s op alg bad snapOf
  · rw [h]; exact .failed _ _ _ (by simp) (by simp)
  · rw [h]; exact .failed _ _ _ (by simp) (by simp)
  · rw [h]; exact .failed _ _ _ (hbad e info hb).1 (hbad e info hb).2
  · have := Entered.started (snapOf a) hk (hsn a hb)
    rw [h, ← hop a]; exact this

theorem enterHotp_entered (alg : Nat) (s : State) :
    Entered s (enterCall 1#4 alg (zeroCounter s) (fun a => .hotp a (secret s) s.counter) s) := by
  refine enterCall_entered (fun e info h => ?_) (fun _ => rfl) (fun a h => ?_)
  · unfold zeroCounter at h; split at h <;> simp_all; simp [← h.1]
  · unfold zeroCounter at h; split at h
    · simp at h
    · exact ⟨rfl, rfl, rfl, ‹_›⟩

theorem enterTotp_entered (alg : Nat) (s : State) :
    Entered s (enterCall 2#4 alg (zeroCounter s) (fun a => .totp a (secret s) s.counter) s) := by
  refine enterCall_entered (fun e info h => ?_) (fun _ => rfl) (fun a h => ?_)
  · unfold zeroCounter at h; split at h <;> simp_all; simp [← h.1]
  · unfold zeroCounter at h; split at h
    · simp at h
    · exact ⟨rfl, rfl, rfl, ‹_›⟩

theorem enterVerify_entered (alg : Nat) (tolv : Bool) (s : State) :
    Entered s (enterCall 3#4 alg (emptyCode s) (fun a => .verify a (secret s) (currentWindow s)
      (effectiveTolerance tolv s) s.pcodeLen (presentedCode s)) s) := by
  refine enterCall_entered (fun e info h => ?_) (fun _ => rfl) (fun a h => ?_)
  · unfold emptyCode at h; split at h <;> simp_all; simp [← h.1]
  · unfold emptyCode at h; split at h
    · simp at h
    · refine ⟨rfl, rfl, rfl, ?_, rfl, ‹_›, rfl⟩
      cases tolv
      · exact .inr rfl
      · exact .inl rfl

/-- Everything a command can do: it is cleared, dropped while BUSY, or a call begins. -/
theorem exec_cases (i : Instr) (s : State) :
    (∃ ign, i = .clear ign ∧ exec i s = .next (clear s)) ∨
    ((∀ ign, i ≠ .clear ign) ∧ s.status.phase = .busy ∧ exec i s = .next (dropWrite s)) ∨
    ((∀ ign, i ≠ .clear ign) ∧ s.status.phase ≠ .busy ∧ ∃ t, exec i s = .next t ∧ Entered s t) := by
  cases i with
  | clear ign => exact .inl ⟨ign, rfl, rfl⟩
  | hotp alg =>
    refine .inr ((whenAccepted_cases s).imp (fun h => ⟨by simp, h.1, h.2⟩) fun h => ⟨by simp, h.1, _, h.2, ?_⟩)
    exact enterHotp_entered alg s
  | totp alg =>
    refine .inr ((whenAccepted_cases s).imp (fun h => ⟨by simp, h.1, h.2⟩) fun h => ⟨by simp, h.1, _, h.2, ?_⟩)
    exact enterTotp_entered alg s
  | verify alg tolv =>
    refine .inr ((whenAccepted_cases s).imp (fun h => ⟨by simp, h.1, h.2⟩) fun h => ⟨by simp, h.1, _, h.2, ?_⟩)
    exact enterVerify_entered alg tolv s

/-- Everything an ILLEGAL word can do. -/
theorem illegalCommand_cases (w : Word32) (s : State) :
    (s.status.phase = .busy ∧ illegalCommand w s = .next (dropWrite s)) ∨
    (s.status.phase ≠ .busy ∧
      illegalCommand w s = .next (raise .invalidCommand w .entry (beginCall (BitVec.ofNat 4 w.toNat) s))) :=
  whenAccepted_cases s

/-- How a call ends (R210). -/
inductive Finished (s : State) : Snap → State → Prop
  | hotp {a key counter} (code : Nat) (h : hotpCode a key counter = some (code, format6 code))
      (hc : code < Config.modulus) : Finished s (.hotp a key counter) (publishCode code (format6 code) s)
  | totp {a key counter} (code : Nat) (h : hotpCode a key counter = some (code, format6 code))
      (hc : code < Config.modulus) : Finished s (.totp a key counter) (publishCode code (format6 code) s)
  | hit {a key window tol plen pcode} (h : verifyLoop a key window tol plen pcode = .hit) :
      Finished s (.verify a key window tol plen pcode) (publishMatch true s)
  | miss {a key window tol plen pcode} (h : verifyLoop a key window tol plen pcode = .miss) :
      Finished s (.verify a key window tol plen pcode) (publishMatch false s)
  | under {a key window tol plen pcode} (i : Nat) (h : verifyLoop a key window tol plen pcode = .under i) :
      Finished s (.verify a key window tol plen pcode) (raise .invalidCounter (BitVec.ofNat 32 i) .verifyLoop s)

/-- Every call ends in one of the ways of R209. -/
theorem completeCall_finished (sn : Snap) (s : State) : ∃ t, completeCall sn s = .next t ∧ Finished s sn t := by
  cases sn with
  | hotp a key counter =>
    obtain ⟨code, h, hc⟩ := hotpCode_eq a key counter
    exact ⟨_, by simp only [completeCall, h, completeCode], .hotp code h hc⟩
  | totp a key counter =>
    obtain ⟨code, h, hc⟩ := hotpCode_eq a key counter
    exact ⟨_, by simp only [completeCall, totpCode, h, completeCode], .totp code h hc⟩
  | verify a key window tol plen pcode =>
    cases h : verifyLoop a key window tol plen pcode with
    | hit => exact ⟨_, by simp only [completeCall, h, completeVerdict], .hit h⟩
    | miss => exact ⟨_, by simp only [completeCall, h, completeVerdict], .miss h⟩
    | under i => exact ⟨_, by simp only [completeCall, h, completeVerdict], .under i h⟩
    | noCode => exact absurd h (verifyFrom_ne_noCode _ _ _ _ _ _ _)

/-- Everything `Complete` can do (R210). -/
theorem complete_cases (s : State) :
    (s.status.phase ≠ .busy ∧ complete s = .next s) ∨
    (s.status.phase = .busy ∧ s.snap = none ∧ complete s = .fault .noSnapshot) ∨
    (∃ sn t, s.status.phase = .busy ∧ s.snap = some sn ∧ complete s = .next t ∧ Finished s sn t) := by
  by_cases hb : s.status.phase = .busy
  · cases hs : s.snap with
    | none => exact .inr (.inl ⟨hb, rfl, by simp only [complete, if_pos hb, hs]⟩)
    | some sn =>
      obtain ⟨t, ht, hf⟩ := completeCall_finished sn s
      exact .inr (.inr ⟨sn, t, hb, rfl, by simp only [complete, if_pos hb, hs, ht], hf⟩)
  · exact .inl ⟨hb, by simp only [complete, if_neg hb]⟩

/-- A host write that reaches the block at a word other than `CMD`: dropped while BUSY, else stored (R201, R205). -/
theorem regWrite_cases (p : Port) (v : Word32) (s : State) :
    (s.status.phase = .busy ∧ regWrite p v s = .next (dropWrite s)) ∨
    (s.status.phase ≠ .busy ∧ regWrite p v s = .next (storePort p v s)) := whenAccepted_cases s

/-- Everything a step can do, by the next event of the total order (R48). `rest` is what is left of the order. -/
inductive Stepped (s : State) : Host.Outcome State Fault Refusal → Prop
  | idle (hb : s.bus = []) : Stepped s (complete s)
  | complete (rest : List BusEvent) (hb : s.bus = .complete :: rest) : Stepped s (complete (popEvent rest s))
  | reset (rest : List BusEvent) (hb : s.bus = .reset :: rest) : Stepped s (.next (resetBlock (popEvent rest s)))
  | read (off size : Nat) (rest : List BusEvent) (hb : s.bus = .read off size :: rest) :
      Stepped s (.next (hostRead off size (popEvent rest s)))
  | refusedWrite (off size : Nat) (v : Word32) (rest : List BusEvent) (hb : s.bus = .write off size v :: rest)
      (hp : portOf s.cfg off size = none) : Stepped s (.next (answer .busError (popEvent rest s)))
  | command (off size : Nat) (v : Word32) (i : Instr) (rest : List BusEvent)
      (hb : s.bus = .write off size v :: rest) (hp : portOf s.cfg off size = some .cmd) (hd : decode v = .ok i) :
      Stepped s (exec i (answer .written (popEvent rest s)))
  | illegal (off size : Nat) (v : Word32) (e : Illegal) (rest : List BusEvent)
      (hb : s.bus = .write off size v :: rest) (hp : portOf s.cfg off size = some .cmd) (hd : decode v = .error e) :
      Stepped s (illegalCommand v (answer .written (popEvent rest s)))
  | write (off size : Nat) (v : Word32) (p : Port) (rest : List BusEvent) (hb : s.bus = .write off size v :: rest)
      (hp : portOf s.cfg off size = some p) (hc : p ≠ .cmd) :
      Stepped s (regWrite p v (answer .written (popEvent rest s)))

theorem step_cases (s : State) : Stepped s (step s) := by
  unfold step fetch
  cases hb : s.bus with
  | nil => exact .idle hb
  | cons e rest =>
    cases e with
    | complete => exact .complete rest hb
    | reset => exact .reset rest hb
    | read off size => exact .read off size rest hb
    | write off size v =>
      simp only [hostWrite, popEvent_cfg]
      cases hp : portOf s.cfg off size with
      | none => exact .refusedWrite off size v rest hb hp
      | some p =>
        by_cases hc : p = .cmd
        · subst hc
          cases hd : decode v with
          | ok i => simp only [hd]; exact .command off size v i rest hb hp hd
          | error e => simp only [hd]; exact .illegal off size v e rest hb hp hd
        · have h := Stepped.write off size v p rest hb hp hc
          cases p <;> first | exact absurd rfl hc | exact h

end Sys2Proof.Machine
end

