-- ==== Sys2Proof/Laws/PerInstr.lean ====
section
/-! SUPPORT. One lemma per command about its syntax: where a well-formed command's fields stand in its word (R61,
R62). -/

namespace Sys2Proof.Laws

/-- The word of a well-formed command: `OP` in 3:0, the command's field from bit 4 up, and the bits above it. -/
def EncodedFields.Statement : Instr → Prop
  | .hotp alg => algFits alg = true →
      field (encode (.hotp alg)) 3 0 = 0x1 ∧ field (encode (.hotp alg)) 7 4 = alg ∧
        field (encode (.hotp alg)) 31 8 = 0
  | .totp alg => algFits alg = true →
      field (encode (.totp alg)) 3 0 = 0x2 ∧ field (encode (.totp alg)) 7 4 = alg ∧
        field (encode (.totp alg)) 31 8 = 0
  | .verify alg tolv => algFits alg = true →
      field (encode (.verify alg tolv)) 3 0 = 0x3 ∧ field (encode (.verify alg tolv)) 7 4 = alg ∧
        field (encode (.verify alg tolv)) 8 8 = tolv.toNat ∧ field (encode (.verify alg tolv)) 31 9 = 0
  | .clear ign => ignFits ign = true →
      field (encode (.clear ign)) 3 0 = 0xF ∧ field (encode (.clear ign)) 31 4 = ign

theorem EncodedFields.hotp (alg : Nat) : EncodedFields.Statement (.hotp alg) := by
  intro h
  have h : alg < 16 := by simpa [algFits] using h
  simp only [encode, field_ofNat _ _ _ (show 0x1 + 2 ^ 4 * alg < 2 ^ 32 by omega)]
  omega

theorem EncodedFields.totp (alg : Nat) : EncodedFields.Statement (.totp alg) := by
  intro h
  have h : alg < 16 := by simpa [algFits] using h
  simp only [encode, field_ofNat _ _ _ (show 0x2 + 2 ^ 4 * alg < 2 ^ 32 by omega)]
  omega

theorem EncodedFields.verify (alg : Nat) (tolv : Bool) : EncodedFields.Statement (.verify alg tolv) := by
  intro h
  have h : alg < 16 := by simpa [algFits] using h
  have ht : tolv.toNat < 2 := tolv.toNat_lt
  simp only [encode, field_ofNat _ _ _ (show 0x3 + 2 ^ 4 * alg + 2 ^ 8 * tolv.toNat < 2 ^ 32 by omega)]
  omega

theorem EncodedFields.clear (ign : Nat) : EncodedFields.Statement (.clear ign) := by
  intro h
  have h : ign < 2 ^ 28 := by simpa [ignFits] using h
  simp only [encode, field_ofNat _ _ _ (show 0xF + 2 ^ 4 * ign < 2 ^ 32 by omega)]
  omega

end Sys2Proof.Laws
end

