-- ==== Sys2Proof/Laws/Step.lean ====
section
/-! SUPPORT. The step by the kind of the next event, for running a known schedule forward. -/

namespace Sys2Proof.Machine

variable {s : State} {rest : List BusEvent}

theorem step_nil (h : s.bus = []) : step s = complete s := by simp only [step, fetch, h]

theorem step_complete (h : s.bus = .complete :: rest) : step s = complete (popEvent rest s) := by
  simp only [step, fetch, h]

theorem step_reset (h : s.bus = .reset :: rest) : step s = .next (resetBlock (popEvent rest s)) := by
  simp only [step, fetch, h]

theorem step_read {off size : Nat} (h : s.bus = .read off size :: rest) :
    step s = .next (hostRead off size (popEvent rest s)) := by simp only [step, fetch, h]

/-- A write the block refuses (R42). -/
theorem step_write_refused {off size : Nat} {v : Word32} (h : s.bus = .write off size v :: rest)
    (hp : portOf s.cfg off size = none) : step s = .next (answer .busError (popEvent rest s)) := by
  simp only [step, fetch, h, hostWrite, popEvent_cfg, hp]

/-- A write of a word other than `CMD`. -/
theorem step_write_port {off size : Nat} {v : Word32} {p : Port} (h : s.bus = .write off size v :: rest)
    (hp : portOf s.cfg off size = some p) (hc : p ≠ .cmd) :
    step s = regWrite p v (answer .written (popEvent rest s)) := by
  cases p <;> first | exact absurd rfl hc | simp only [step, fetch, h, hostWrite, popEvent_cfg, hp]

/-- `CMD` is one word of every window (R41). -/
theorem portOf_cmd (cfg : Config) : portOf cfg 0x00 4 = some .cmd := by
  have := cfg.aboveLargestBlock
  rw [portOf, if_pos ⟨rfl, rfl, by omega⟩]
  rfl

/-- An aligned word inside the window is reached (R42). -/
theorem portOf_aligned {cfg : Config} {off : Nat} (h4 : off % 4 = 0) (h : off < 0x100 + cfg.keyMaxBytes) :
    portOf cfg off 4 = some (portAt off) := if_pos ⟨rfl, h4, h⟩

/-- A key word of the window lies inside the buffer (R22, R41). -/
theorem portOf_key_bound {cfg : Config} {off size w : Nat} (h : portOf cfg off size = some (.key w)) :
    4 * w + 4 ≤ cfg.keyMaxBytes := by
  have hm := cfg.multipleOfFour
  unfold portOf at h
  split at h
  · rename_i hc
    simp only [Option.some.injEq] at h
    unfold portAt at h
    split at h
    · simp only [Port.key.injEq] at h
      omega
    · split at h <;> simp at h
  · simp at h

/-- The key words of the map (R41). -/
theorem portAt_key (w : Nat) : portAt (0x100 + 4 * w) = .key w := by
  unfold portAt
  rw [if_pos (by omega)]
  congr 1
  omega

/-- The reserved words of the map (R41). -/
theorem portAt_reserved {off : Nat} (h1 : 0x3C ≤ off) (h2 : off < 0x100) : portAt off = .reserved off := by
  unfold portAt
  rw [if_neg (by omega)]
  split <;> first | omega | rfl

/-- `CMD` is the word at offset 0 and no other (R41). -/
theorem portAt_eq_cmd {off : Nat} (h : portAt off = .cmd) : off = 0x00 := by
  unfold portAt at h
  split at h
  · simp at h
  · split at h <;> simp_all

/-- Only an aligned 32-bit access at offset 0 reaches `CMD` (R41, R42). -/
theorem portOf_eq_cmd {cfg : Config} {off size : Nat} (h : portOf cfg off size = some .cmd) :
    off = 0x00 ∧ size = 4 := by
  unfold portOf at h
  split at h
  · rename_i hc
    exact ⟨portAt_eq_cmd (by simpa using h), hc.1⟩
  · simp at h

/-- A word written to `CMD` is fetched as a command (R51). -/
theorem fetch_command {w : Word32} (h : s.bus = .write 0x00 4 w :: rest) :
    fetch s = .command w (answer .written (popEvent rest s)) := by
  simp only [fetch, h, hostWrite, popEvent_cfg, portOf_cmd]

end Sys2Proof.Machine
end

