-- ==== Sys2Proof/Laws/Run.lean ====
section
/-! SUPPORT. Runs of the machine, one step or one stretch at a time, and the load of a key. -/

namespace Sys2Proof.Machine

@[simp] theorem runSteps_zero (s : State) : runSteps 0 s = .next s := rfl

/-- A run goes on from the next state. -/
theorem runSteps_step {s t : State} (h : step s = .next t) (n : Nat) : runSteps (n + 1) s = runSteps n t := by
  rw [runSteps, h]

/-- A run of `m + n` steps is a run of `m` and then one of `n`. -/
theorem runSteps_add {s t : State} {m : Nat} (h : runSteps m s = .next t) (n : Nat) :
    runSteps (m + n) s = runSteps n t := by
  induction m generalizing s with
  | zero => cases h; rw [Nat.zero_add]
  | succ m ih =>
    rw [Nat.succ_add, runSteps]
    rw [runSteps] at h
    cases hs : step s with
    | next u => rw [hs] at h; exact ih h
    | fault r => rw [hs] at h; cases h
    | refused r => rw [hs] at h; cases h

/-- The host's run is the same run. -/
theorem core_run_eq (n : Nat) (s : State) : core.run n s = runSteps n s := by
  induction n generalizing s with
  | zero => rfl
  | succ n ih =>
    rw [runSteps]
    have h : ∀ (M : Host.Core) (k : Nat) (x : M.State), M.run (k + 1) x =
        match M.step x with
        | .next y => M.run k y
        | .fault r => .fault r
        | .refused r => .refused r := fun _ _ _ => rfl
    refine (h core n s).trans ?_
    have hs : core.step s = step s := rfl
    rw [hs]
    cases step s with
    | next t => exact ih t
    | fault r => rfl
    | refused r => rfl

/-- A word the host forms from its key carries the key's own bytes, lane by lane (R68). -/
theorem byteLane_keyWord (key : List Byte) {w k : Nat} (hk : k < 4) :
    byteLane (keyWord key w) k = key.getD (4 * w + k) 0 := by
  have hlt : le ((key.drop (4 * w)).take 4) < 2 ^ 32 :=
    lt_of_lt_of_le (le_lt _) (Nat.pow_le_pow_right (by omega) (by simp only [List.length_take]; omega))
  rw [byteLane, keyWord, BitVec.toNat_ofNat, Nat.mod_eq_of_lt hlt, le_byte]
  simp only [List.getD_eq_getElem?_getD, List.getElem?_take, hk, if_true, List.getElem?_drop]

/-- An operand write in a state that is not BUSY (R201). -/
theorem step_store {s : State} {off : Nat} {v : Word32} {p : Port} {rest : List BusEvent} (hn : s.status.phase ≠ .busy)
    (h : s.bus = .write off 4 v :: rest) (hp : portOf s.cfg off 4 = some p) (hc : p ≠ .cmd) :
    step s = .next (storePort p v (answer .written (popEvent rest s))) := by
  rw [step_write_port h hp hc]
  exact whenAccepted_of_not_busy _ hn

/-- The first `m` key words of a load, from a state that is not BUSY. -/
theorem runSteps_keyWords (key : List Byte) (m : Nat) (rest : List BusEvent) {s : State}
    (hn : s.status.phase ≠ .busy) (hwf : s.key.wf s.cfg.keyMaxBytes = true) (hm : 4 * m ≤ s.cfg.keyMaxBytes)
    (hb : s.bus = (List.range m).map (fun w => BusEvent.write (0x100 + 4 * w) 4 (keyWord key w)) ++ rest) :
    ∃ (k : Memory) (r : Reply), runSteps m s = .next { s with bus := rest, reply := r, key := k } ∧
      k.wf s.cfg.keyMaxBytes = true ∧ ∀ x < 4 * m, k.read x = key.getD x 0 := by
  induction m generalizing rest with
  | zero => exact ⟨s.key, s.reply, by rw [show rest = s.bus by simpa using hb.symm]; rfl, hwf, by omega⟩
  | succ m ih =>
    rw [List.range_succ, List.map_append, List.append_assoc] at hb
    obtain ⟨k, r, hrun, hk, hread⟩ := ih _ (by omega) hb
    refine ⟨k.writeWord m (keyWord key m), .written, ?_, Memory.writeWord_wf hk _ (by omega), fun x hx => ?_⟩
    · rw [runSteps_add hrun 1]
      refine runSteps_step (step_store (off := 0x100 + 4 * m) (v := keyWord key m) (p := .key m) (rest := rest)
        (s := { s with bus := .write (0x100 + 4 * m) 4 (keyWord key m) :: rest, reply := r, key := k })
        hn rfl ?_ (by simp)) 0
      rw [portOf_aligned (by omega) (by show _ < 0x100 + s.cfg.keyMaxBytes; omega), portAt_key]
    · rw [Memory.read_writeWord hk _ (by omega)]
      by_cases hxm : x / 4 = m
      · rw [if_pos hxm, byteLane_keyWord key (by omega)]; congr 1; omega
      · rw [if_neg hxm]; exact hread x (by omega)

/-- The host's load of a key (R68), from a state that is not BUSY: afterwards the secret is the key. -/
theorem runSteps_loadKey (key : List Byte) (rest : List BusEvent) {s : State} (hn : s.status.phase ≠ .busy)
    (hwf : s.key.wf s.cfg.keyMaxBytes = true) (hlen : key.length ≤ s.cfg.keyMaxBytes)
    (hb : s.bus = loadKey key ++ rest) :
    ∃ k : Memory, runSteps (loadKey key).length s =
        .next { s with bus := rest, reply := .written, key := k, keyLen := BitVec.ofNat 32 key.length } ∧
      k.wf s.cfg.keyMaxBytes = true ∧ k.slice key.length = key := by
  have h4 := s.cfg.multipleOfFour
  have h0 := s.cfg.aboveLargestBlock
  rw [loadKey, List.append_assoc] at hb
  obtain ⟨k, r, hrun, hk, hread⟩ := runSteps_keyWords key ((key.length + 3) / 4) _ hn hwf (by omega) hb
  refine ⟨k, ?_, hk, ?_⟩
  · have hl : (loadKey key).length = (key.length + 3) / 4 + 1 := by simp [loadKey]
    rw [hl, runSteps_add hrun 1]
    refine runSteps_step (step_store (off := 0x0C) (v := BitVec.ofNat 32 key.length) (p := .keyLen) (rest := rest)
      (s := { s with bus := .write 0x0C 4 (BitVec.ofNat 32 key.length) :: rest, reply := r, key := k })
      hn rfl ?_ (by simp)) 0
    rw [portOf_aligned (by omega) (by show _ < 0x100 + s.cfg.keyMaxBytes; omega)]; rfl
  · apply List.ext_getElem (by simp)
    intro x hx hx'
    simp only [Memory.slice, List.getElem_map, List.getElem_range]
    rw [hread x (by omega)]
    simp [List.getD_eq_getElem?_getD, hx']

end Sys2Proof.Machine
end

