-- ==== Sys2Proof/Tests/Slice0.lean ====
section
/-! SUPPORT. Small tests against the words and values the spec prints, and for every statement that has hypotheses a
concrete state that meets them. Expected values are the spec's (spec/95_test_vectors.md and the examples of the rules);
none is taken from this model. -/

namespace Sys2Proof.Tests

-- One theorem after another: kernel evaluations side by side take too much memory.
set_option Elab.async false

open Sys2Proof Sys2Proof.Machine

/-! ### WellFormed: one ill-formed term for each check -/

theorem test_wellFormed_refuses_hotp_alg : Instr.wellFormed (.hotp 16) = false := by decide
theorem test_wellFormed_refuses_totp_alg : Instr.wellFormed (.totp 16) = false := by decide
theorem test_wellFormed_refuses_verify_alg : Instr.wellFormed (.verify 16 true) = false := by decide
theorem test_wellFormed_refuses_clear_ign : Instr.wellFormed (.clear (2 ^ 28)) = false := by decide
theorem test_wellFormed_accepts_the_largest_fields :
    (Instr.wellFormed (.hotp 15) && Instr.wellFormed (.totp 15) && Instr.wellFormed (.verify 15 false)
      && Instr.wellFormed (.clear (2 ^ 28 - 1))) = true := by decide

/-! ### Decode: words written out from R61, R62, R63 -/

theorem test_decode_hotp : decode 0b00000000000000000000000000010001#32 = .ok (.hotp 1) := by decide
theorem test_decode_totp : decode 0b00000000000000000000000010110010#32 = .ok (.totp 11) := by decide
theorem test_decode_verify : decode 0b00000000000000000000000000010011#32 = .ok (.verify 1 false) := by decide
theorem test_decode_verify_tolerance : decode 0b00000000000000000000000100010011#32 = .ok (.verify 1 true) := by decide
theorem test_decode_clear : decode 0b00000000000000000000000000001111#32 = .ok (.clear 0) := by decide
theorem test_decode_reserved_op : decode 0b00000000000000000000000000110100#32 = .error (.reservedOp 4) := by decide
theorem test_decode_reserved_bits : decode 0b00000000000000000000000100110001#32 = .error (.reservedBits 1) := by decide
theorem test_decodeTableWord : decodeTableWord 32 0x113 = some (.verify 1 true) := by decide

/-! ### The hash engines: digests of "abc" (spec/95_test_vectors.md section 2.1) and the stages of R174 -/

def abc : List Byte := [0x61#8, 0x62#8, 0x63#8]

theorem test_digests_of_abc :
    sha1 abc = tobe 20 0xa9993e364706816aba3e25717850c26c9cd0d89d ∧
    sha224 abc = tobe 28 0x23097d223405d8228642a477bda255b32aadbce4bda0b3f7e36c9da7 ∧
    sha256 abc = tobe 32 0xba7816bf8f01cfea414140de5dae2223b00361a396177a9cb410ff61f20015ad ∧
    sha384 abc = tobe 48
      0xcb00753f45a35e8bb5a03d699ac65007272c32ab0eded1631a8b605a43ff5bed8086072ba1e7cc2358baeca134c825a7 ∧
    sha512 abc = tobe 64
      (0xddaf35a193617abacc417349ae20413112e6fa4e89a97ea20a9eeee64b55d39a * 2 ^ 256
        + 0x2192992a274fc1a836ba3c23a3feebbd454d4423643ce80e2a9ac94fa54ca49f) ∧
    sha512t224 abc = tobe 28 0x4634270f707b6a54daae7530460842e20e37ed265ceee9a43e8924aa ∧
    sha512t256 abc = tobe 32 0x53048e2681941ef99b2e29b76b4c7dabe4c2d0c634fc6d46e0e2f13107e7af23 ∧
    sha3x256 abc = tobe 32 0x3a985da74fe225b2045c172d6bd390bd855f086e3e9d525b46bfe24511431532 := by
  decide +kernel

/-- "12345678901234567890", the key of R174. -/
def keyText : List Byte := tobe 20 0x3132333435363738393031323334353637383930

theorem test_stages_of_a_code :
    encodeCounter 1#64 = [0, 0, 0, 0, 0, 0, 0, 1] ∧
    prepareKey .sha1 keyText = keyText ++ List.replicate 44 0#8 ∧
    hmac .sha1 keyText (encodeCounter 1#64) = tobe 20 0x75a48a19d4cbe100644e8ac1397eea747a2d33ab ∧
    truncOffset (tobe 20 0x75a48a19d4cbe100644e8ac1397eea747a2d33ab) = some 11 ∧
    truncValue (tobe 20 0x75a48a19d4cbe100644e8ac1397eea747a2d33ab) 11 = 1094287082 ∧
    hotpCode .sha1 keyText 1#64 = some (287082, [0x32, 0x38, 0x37, 0x30, 0x38, 0x32]) := by
  decide +kernel

/-! ### One step of each command. Two keys of the spec: `Krfc` and `Kgold` (spec/95_test_vectors.md). -/

/-- The state an outcome goes on in. -/
def nextOf (o : Host.Outcome State Fault Refusal) : State :=
  match o with
  | .next t => t
  | .fault _ => State.reset
  | .refused _ => State.reset

/-- An outcome is a next state. -/
def goesOn (o : Host.Outcome State Fault Refusal) : Bool :=
  match o with
  | .next _ => true
  | .fault _ => false
  | .refused _ => false

theorem eq_nextOf {o : Host.Outcome State Fault Refusal} (h : goesOn o = true) : o = .next (nextOf o) := by
  cases o with
  | next t => rfl
  | fault r => exact absurd h Bool.false_ne_true
  | refused r => exact absurd h Bool.false_ne_true

/-- A key buffer holding these bytes, none of them zero. -/
def memoryOf (key : List Byte) : Memory := (List.range key.length).zip key

/-- The key and counter of R174, loaded. -/
def ready : State :=
  { State.reset with key := memoryOf keyText, keyLen := 20#32, counter := 1#64, pcodeLen := 6#32 }

/-- `Kgold`. -/
def keyGold : List Byte := tobe 10 0x79616d6f6d7361686f65

/-- The operands of the example of R180: the code "180631", three windows old. -/
def readyGold : State :=
  { State.reset with
    key := memoryOf keyGold, keyLen := 10#32, counter := 56666666#64, time := 1700000000#64, tolerance := 3#32,
    pcodeLen := 6#32, pcode := packString [0x31, 0x38, 0x30, 0x36, 0x33, 0x31] }

def busyHotp : State := nextOf (exec (.hotp 1) ready)
def busyTotp : State := nextOf (exec (.totp 1) readyGold)
def busyVerify : State := nextOf (exec (.verify 1 true) readyGold)

theorem test_hotp_is_busy : busyHotp.status.word = 0x00000101#32 := by decide +kernel
theorem test_hotp_completes :
    (nextOf (complete busyHotp)).codeVal = 287082#32 ∧ (nextOf (complete busyHotp)).codeAscii = 0x0000323830373832#64 ∧
    (nextOf (complete busyHotp)).status.word = 0x00000102#32 := by decide +kernel

theorem test_totp_is_busy : busyTotp.status.word = 0x00000201#32 := by decide +kernel
theorem test_totp_completes :
    (nextOf (complete busyTotp)).codeVal = 996882#32 ∧ (nextOf (complete busyTotp)).status.word = 0x00000202#32 := by
  decide +kernel

theorem test_verify_supplied_tolerance_matches :
    (nextOf (complete busyVerify)).status.word = 0x00000306#32 := by decide +kernel
theorem test_verify_default_tolerance_does_not_match :
    (nextOf (complete (nextOf (exec (.verify 1 false) readyGold)))).status.word = 0x00000302#32 := by decide +kernel

/-- The example of R211: in ERROR with `STATUS = 0x00000133`, CLEAR gives `STATUS = 0`. -/
theorem test_clear_after_an_error :
    (nextOf (exec (.hotp 1) { ready with counter := 0#64 })).status.word = 0x00000133#32 ∧
    (nextOf (exec (.clear 0) (nextOf (exec (.hotp 1) { ready with counter := 0#64 })))).status.word = 0#32 := by
  decide +kernel

theorem test_clear_aborts_a_call : (nextOf (exec (.clear 5) busyVerify)).status.phase = .idle := by decide +kernel

/-- The example of R221: an ILLEGAL word. -/
theorem test_illegal_word :
    (nextOf (step (State.withFetchWord State.reset 32 0x34))).status.word = 0x00000463#32 ∧
    (nextOf (step (State.withFetchWord State.reset 32 0x34))).errInfo = 0x34#32 := by decide +kernel

/-- The example of R207: no key loaded. -/
theorem test_withFetchWord_runs_the_word :
    (nextOf (step (State.withFetchWord State.reset 32 0x11))).status.word = 0x00000123#32 := by decide +kernel

/-- The example of R184: a candidate below window 0. -/
theorem test_verify_below_window_zero :
    (nextOf (complete (nextOf (exec (.verify 1 true) { readyGold with
      time := 45#64, pcode := packString [0x30, 0x30, 0x30, 0x30, 0x30, 0x30] })))).status.word = 0x00001333#32 := by
  decide +kernel

/-! ### Witnesses: states that meet the hypotheses of the statements -/

/-- A state with the given events to come. -/
def withBus (s : State) (bus : List BusEvent) : State := { s with bus := bus }

/-- A BUSY HOTP call meets the invariant. -/
theorem busyHotp_inv (bus : List BusEvent) : (withBus busyHotp bus).Inv where
  keyWf := by show busyHotp.key.wf busyHotp.cfg.keyMaxBytes = true; decide +kernel
  snapOnlyBusy := fun h => absurd (show busyHotp.status.phase = .busy by decide +kernel) h
  snapAgrees := fun _ => by
    refine ⟨.hotp .sha1 keyText 1#64, ?_, ⟨?_, ?_, ?_, ?_⟩, ?_⟩
    · show busyHotp.snap = _; decide +kernel
    · show busyHotp.status.op = 1#4; decide +kernel
    · show keyText = secret busyHotp; decide +kernel
    · show 1#64 = busyHotp.counter; decide +kernel
    · show ¬busyHotp.counter = 0#64; decide +kernel
    · show keyLenLegal busyHotp = true; decide +kernel
  errIffError := by show busyHotp.status.err = .noError ↔ ¬busyHotp.status.phase = .error; decide +kernel
  neverTolerance := by show ¬busyHotp.status.err = .invalidTolerance; decide +kernel
  siteOnlyVerify := fun h => absurd h (show ¬busyHotp.status.site = .verifyLoop by decide +kernel)
  errInfoZero := fun _ => show busyHotp.errInfo = 0#32 by decide +kernel
  matchOnlyVerify := fun h => absurd h (show ¬busyHotp.status.matched = true by decide +kernel)
  doneOp := fun h => absurd h (show ¬busyHotp.status.phase = .done by decide +kernel)
  idleStatus := fun h => absurd h (show ¬busyHotp.status.phase = .idle by decide +kernel)
  resultOk := by
    have h : ¬busyHotp.status.phase = .done := by decide +kernel
    simp only [State.ResultOk, withBus, h, false_and, if_false]
    decide +kernel

/-- The reset state, with any events to come, meets the invariant. -/
theorem reset_inv (bus : List BusEvent) : (withBus State.reset bus).Inv where
  keyWf := rfl
  snapOnlyBusy := fun _ => rfl
  snapAgrees := fun h => absurd h (show ¬State.reset.status.phase = .busy by decide)
  errIffError := by show State.reset.status.err = .noError ↔ ¬State.reset.status.phase = .error; decide
  neverTolerance := by show ¬State.reset.status.err = .invalidTolerance; decide
  siteOnlyVerify := fun h => absurd h (show ¬State.reset.status.site = .verifyLoop by decide)
  errInfoZero := fun _ => rfl
  matchOnlyVerify := fun h => absurd h (show ¬State.reset.status.matched = true by decide)
  doneOp := fun h => absurd h (show ¬State.reset.status.phase = .done by decide)
  idleStatus := fun _ => rfl
  resultOk := by
    have h : ¬State.reset.status.phase = .done := by decide
    simp only [State.ResultOk, withBus, h, false_and, if_false]
    decide

theorem witness_ResetInAnyPhaseGivesTheResetState :
    (withBus busyHotp [.reset]).bus = .reset :: [] ∧ (withBus busyHotp [.reset]).status.phase = .busy := by
  decide +kernel

theorem witness_SecretIsErasedWheneverACallEnds :
    (exec (.hotp 1) State.reset = .next (nextOf (exec (.hotp 1) State.reset)) ∧
      (nextOf (exec (.hotp 1) State.reset)).status.phase = .error) ∧
    (illegalCommand 0x34#32 ready = .next (nextOf (illegalCommand 0x34#32 ready)) ∧
      (nextOf (illegalCommand 0x34#32 ready)).status.phase = .error) ∧
    (busyHotp.status.phase = .busy ∧ complete busyHotp = .next (nextOf (complete busyHotp))) :=
  ⟨⟨eq_nextOf (by decide +kernel), by decide +kernel⟩, ⟨eq_nextOf (by decide +kernel), by decide +kernel⟩,
    by decide +kernel, eq_nextOf (by decide +kernel)⟩

theorem witness_ReadsReturnTheRegisterMap :
    (busyHotp.Inv ∧ busyHotp.status.phase = .busy) ∧
    ((0x3C % 4 = 0 ∧ 0x3C ≤ 0x3C ∧ 0x3C < 0x100) ∧ (0xFC % 4 = 0 ∧ 0x3C ≤ 0xFC ∧ 0xFC < 0x100)) ∧
    ((0x100 % 4 = 0 ∧ 0x100 ≤ 0x100 ∧ 0x100 < 0x100 + busyHotp.cfg.keyMaxBytes) ∧
      (0x1FC % 4 = 0 ∧ 0x100 ≤ 0x1FC ∧ 0x1FC < 0x100 + busyHotp.cfg.keyMaxBytes)) :=
  ⟨⟨busyHotp_inv busyHotp.bus, by decide +kernel⟩, by decide, by decide +kernel⟩

theorem witness_ReadsHaveNoSideEffect :
    (withBus ready [.read 0x04 4]).bus = .read 0x04 4 :: [] ∧
    ([.read 0x04 4, .reset] : List BusEvent) = .read 0x04 4 :: [.reset] ∧
    (withBus ready [.read 0x04 4, .read 0x04 4]).bus = .read 0x04 4 :: [.read 0x04 4] := by decide +kernel

theorem witness_RefusedAccessChangesNoState :
    ((1 ≠ 4 ∨ 0x04 % 4 ≠ 0 ∨ 0x100 + busyHotp.cfg.keyMaxBytes ≤ 0x04) ∧
      (withBus busyHotp [.read 0x04 1]).bus = .read 0x04 1 :: []) ∧
    ((4 ≠ 4 ∨ 0x02 % 4 ≠ 0 ∨ 0x100 + busyHotp.cfg.keyMaxBytes ≤ 0x02) ∧
      (withBus busyHotp [.read 0x02 4]).bus = .read 0x02 4 :: []) ∧
    ((4 ≠ 4 ∨ 0x200 % 4 ≠ 0 ∨ 0x100 + busyHotp.cfg.keyMaxBytes ≤ 0x200) ∧
      (withBus busyHotp [.write 0x200 4 7#32]).bus = .write 0x200 4 7#32 :: []) := by decide +kernel

theorem witness_OperandWritesStoreTheWord :
    ready.status.phase ≠ .busy ∧
    [0x0C, 0x10, 0x14, 0x18, 0x1C, 0x20, 0x24, 0x28, 0x2C].all (fun off =>
      (withBus ready [.write off 4 0xFFFFFFFF#32]).bus == [.write off 4 0xFFFFFFFF#32]) = true := by decide +kernel

theorem witness_KeyWordWriteReplacesFourBytes :
    ready.status.phase ≠ .busy ∧ ready.key.wf ready.cfg.keyMaxBytes = true ∧
    (0 < ready.cfg.keyMaxBytes / 4 ∧ (withBus ready [.write 0x100 4 0#32]).bus = [.write (0x100 + 4 * 0) 4 0#32]) ∧
    (63 < ready.cfg.keyMaxBytes / 4 ∧
      (withBus ready [.write 0x1FC 4 1#32]).bus = [.write (0x100 + 4 * 63) 4 1#32]) := by decide +kernel

theorem witness_ReadOnlyAndReservedWritesAreIgnored :
    [0x04, 0x08, 0x30, 0x34, 0x38, 0x3C, 0xFC].all (fun off =>
      decide (off ∈ [0x04, 0x08, 0x30, 0x34, 0x38] ∨ (off % 4 = 0 ∧ 0x3C ≤ off ∧ off < 0x100)) &&
      (withBus ready [.write off 4 1#32]).bus == [.write off 4 1#32]) = true ∧
    ready.status.phase ≠ .busy ∧ busyHotp.status.phase = .busy := by decide +kernel

theorem witness_OperandWritesAreIdempotent :
    (withBus busyHotp [.write 0x10 4 9#32, .write 0x10 4 9#32]).Inv ∧
    (withBus State.reset [.write 0x100 4 9#32, .write 0x100 4 9#32]).Inv ∧ 0x10 ≠ 0x00 ∧ 0x100 ≠ 0x00 :=
  ⟨busyHotp_inv _, reset_inv _, by decide, by decide⟩

theorem witness_BusyDropsEveryWriteButClear :
    (busyHotp.status.phase = .busy ∧ 0x00 % 4 = 0 ∧ 0x00 < 0x100 + busyHotp.cfg.keyMaxBytes ∧
      field 0xFFFFFFFF#32 3 0 = 0xF) ∧
    (0x1FC % 4 = 0 ∧ 0x1FC < 0x100 + busyHotp.cfg.keyMaxBytes ∧ ¬(0x1FC = 0x00 ∧ field 0xF#32 3 0 = 0xF)) ∧
    (field 0x11#32 3 0 ≠ 0xF) ∧
    (busyHotp.status.dropped = false ∧
      (nextOf (step (withBus busyHotp [.write 0x10 4 9#32]))).status.dropped = true ∧
      step (withBus busyHotp [.write 0x10 4 9#32]) = .next (nextOf (step (withBus busyHotp [.write 0x10 4 9#32])))) ∧
    (step (withBus { busyHotp with status := busyHotp.status.drop } [.read 0x04 4]) =
      .next (nextOf (step (withBus { busyHotp with status := busyHotp.status.drop } [.read 0x04 4])))) :=
  ⟨by decide +kernel, by decide +kernel, by decide, ⟨by decide +kernel, by decide +kernel,
    eq_nextOf (by decide +kernel)⟩, eq_nextOf (by decide +kernel)⟩

theorem witness_KeyBufferIsNeverReadable :
    (withBus ready [.write 0x10 4 9#32, .read 0x100 4, .read 0x04 4, .reset]).status.phase ≠ .busy ∧
    (withBus ready [.write 0x10 4 9#32, .read 0x100 4, .read 0x04 4, .reset]).NoCommandComing := by
  refine ⟨by decide +kernel, fun off size v h => ?_⟩
  simp only [withBus, List.mem_cons, BusEvent.write.injEq, reduceCtorEq, List.not_mem_nil, or_false] at h
  omega

theorem witness_DecodeFollowsTheMatchMaskPairs :
    clearRow.accepts 0x0000000F#32 = true ∧ hotpRow.accepts 0x000000F1#32 = true ∧
    totpRow.accepts 0x00000002#32 = true ∧ verifyRow.accepts 0x000001F3#32 = true ∧
    opcodeRows.all (fun r => !r.accepts 0x00000203#32) = true := by decide

theorem witness_DecodeOfEncodeIsTheCommand :
    Instr.wellFormed (.hotp 0) = true ∧ Instr.wellFormed (.totp 15) = true ∧ Instr.wellFormed (.verify 15 true) = true ∧
    Instr.wellFormed (.clear (2 ^ 28 - 1)) = true := by decide

theorem witness_EncodeOfDecodeIsTheWord : decode 0xFFFFFFFF#32 = .ok (.clear (2 ^ 28 - 1)) := by decide

theorem witness_StepRunsTheDecodedCommand :
    (withBus ready [.write 0x00 4 0x11#32]).bus = .write 0x00 4 0x11#32 :: [] ∧ decode 0x11#32 = .ok (.hotp 1) ∧
    decodeTableWord 32 0x113 = some (.verify 1 true) := by decide +kernel

theorem witness_IllegalWordRaisesInvalidCommand :
    ready.status.phase ≠ .busy ∧ (withBus ready [.write 0x00 4 0x34#32]).bus = .write 0x00 4 0x34#32 :: [] ∧
    decode 0x34#32 = .error (.reservedOp 4) := by decide +kernel

theorem witness_AlgorithmCodesSelectTheElevenRows :
    resolve 0x1 = some .sha1 ∧ resolve 0xB = some .sha3x512 ∧ resolve 0x0 = none ∧ resolve 0xC = none := by decide

theorem witness_PreparedKeyFillsABlock :
    (List.replicate 64 0#8).length ≤ blockSize .sha1 ∧ blockSize .sha1 < (List.replicate 65 0#8).length := by decide

theorem witness_Sha2PaddingFillsWholeBlocks :
    ((64 = 64 ∧ 8 = 8) ∨ (64 = 128 ∧ 8 = 16)) ∧ ((128 = 64 ∧ 16 = 8) ∨ (128 = 128 ∧ 16 = 16)) ∧
    (List.replicate 64 0#8).length = 64 ∧ (List.replicate 128 0#8).length = 128 := by decide

theorem witness_Sha3PaddingFillsWholeBlocks :
    1 ≤ 72 ∧ 72 - (List.replicate 71 0#8).length % 72 = 1 ∧ 72 - (List.replicate 72 0#8).length % 72 ≠ 1 := by decide

theorem witness_MessageSchedulesFollowTheRecurrence :
    (List.replicate 64 0#8).length = 64 ∧ (List.replicate 128 0#8).length = 128 ∧ (16 ≤ 16 ∧ 16 < 80) ∧
    (16 ≤ 63 ∧ 63 < 64) ∧ (16 ≤ 79 ∧ 79 < 80) := by decide

theorem witness_Sha1FollowsItsRounds : (List.replicate 64 0#8).length = 64 ∧ 0 < 80 ∧ 79 < 80 := by decide

theorem witness_Sha2CoresFollowTheirRounds :
    (List.replicate 64 0#8).length = 64 ∧ 63 < 64 ∧ (List.replicate 128 0#8).length = 128 ∧ 79 < 80 := by decide

/-- With a block of 72 bytes lane 8, `A[3][1]`, is the last one absorbed and lane 9, `A[4][1]`, is left. -/
theorem witness_Sha3FollowsTheSponge :
    (List.replicate 72 0#8).length % 8 = 0 ∧ (3 < 5 ∧ 1 < 5 ∧ 3 + 5 * 1 < (List.replicate 72 0#8).length / 8) ∧
    (4 < 5 ∧ ¬4 + 5 * 1 < (List.replicate 72 0#8).length / 8) ∧ 23 < 24 ∧
    (List.replicate 25 0#64).length = 25 ∧ 199 < 200 := by decide

theorem witness_KeccakStepsActOnTheLanesAsWritten : 0 < 5 ∧ 4 < 5 := by decide

theorem witness_CounterMessageIsBigEndian : 0 < 8 ∧ 7 < 8 := by decide

theorem witness_SmallCountersHaveZeroHighBytes : (0xFFFFFFFF#64).toNat < 2 ^ 32 := by decide

theorem witness_TruncatedValueIsMaskedBigEndian : 15 + 4 ≤ (List.replicate 19 0xFF#8).length := by decide

theorem witness_CodeStringIsSixDecimalDigits : 0 ≤ 999999 ∧ 999999 ≤ 999999 := by decide

theorem witness_HotpFollowsItsRule :
    (ready.status.phase ≠ .busy ∧ resolve 1 = some .sha1 ∧ 1 ≤ ready.keyLen.toNat ∧
      ready.keyLen.toNat ≤ ready.cfg.keyMaxBytes ∧ ready.counter ≠ 0#64) ∧
    resolve 0 = none ∧
    ((resolve 1).isSome = true ∧ ({ ready with keyLen := 0#32 } : State).keyLen.toNat = 0 ∧
      ready.cfg.keyMaxBytes < ({ ready with keyLen := 257#32 } : State).keyLen.toNat) ∧
    (1 ≤ ({ ready with keyLen := 256#32, counter := 0#64 } : State).keyLen.toNat ∧
      ({ ready with keyLen := 256#32, counter := 0#64 } : State).keyLen.toNat ≤ ready.cfg.keyMaxBytes ∧
      ({ ready with keyLen := 256#32, counter := 0#64 } : State).counter = 0#64) ∧
    (busyHotp.status.phase = .busy ∧ busyHotp.snap = some (.hotp .sha1 keyText 1#64)) := by decide +kernel

theorem witness_TotpFollowsItsRule :
    (readyGold.status.phase ≠ .busy ∧ resolve 11 = some .sha3x512 ∧ 1 ≤ readyGold.keyLen.toNat ∧
      readyGold.keyLen.toNat ≤ readyGold.cfg.keyMaxBytes ∧ readyGold.counter ≠ 0#64) ∧
    resolve 12 = none ∧
    ((resolve 11).isSome = true ∧ ({ readyGold with keyLen := 0#32 } : State).keyLen.toNat = 0 ∧
      readyGold.cfg.keyMaxBytes < ({ readyGold with keyLen := 257#32 } : State).keyLen.toNat) ∧
    ({ readyGold with counter := 0#64 } : State).counter = 0#64 ∧
    (busyTotp.status.phase = .busy ∧ busyTotp.snap = some (.totp .sha1 keyGold 56666666#64)) := by decide +kernel

theorem witness_StringEqualityIsOneWordComparison : (format6 180631).length = 6 := by decide

theorem witness_VerifyFollowsItsRule :
    (readyGold.status.phase ≠ .busy ∧ resolve 1 = some .sha1 ∧ 1 ≤ readyGold.keyLen.toNat ∧
      readyGold.keyLen.toNat ≤ readyGold.cfg.keyMaxBytes ∧ readyGold.pcodeLen ≠ 0#32) ∧
    resolve 15 = none ∧
    ((resolve 1).isSome = true ∧ ({ readyGold with keyLen := 0#32 } : State).keyLen.toNat = 0 ∧
      readyGold.cfg.keyMaxBytes < ({ readyGold with keyLen := 257#32 } : State).keyLen.toNat) ∧
    ({ readyGold with pcodeLen := 0#32 } : State).pcodeLen = 0#32 ∧
    (busyVerify.status.phase = .busy ∧ busyVerify.snap = some (.verify .sha1 keyGold 56666666#64 3#32 6#32
      (BitVec.ofNat 48 (le [0x31, 0x38, 0x30, 0x36, 0x33, 0x31])))) := by decide +kernel

/-- The code "180631" is that of the window three back; the three nearer windows have other codes. -/
theorem witness_ToleranceDecidesWhichOldCodeIsAccepted :
    readyGold.status.phase ≠ .busy ∧ resolve 1 = some .sha1 ∧ keyLenLegal readyGold = true ∧
    readyGold.pcodeLen = 6#32 ∧ 3 ≤ readyGold.time.toNat / 30 ∧
    hotpCode .sha1 (secret readyGold) (BitVec.ofNat 64 (readyGold.time.toNat / 30 - 3)) =
      some (180631, format6 180631) ∧
    readyGold.pcode.extractLsb' 0 48 = BitVec.ofNat 48 (le (format6 180631)) ∧
    3 ≤ readyGold.tolerance.toNat ∧ ({ readyGold with tolerance := 2#32 } : State).tolerance.toNat < 3 ∧
    ∀ i ≤ 2, ∀ c, hotpCode .sha1 (secret readyGold) (BitVec.ofNat 64 (readyGold.time.toNat / 30 - i)) ≠
      some (c, format6 180631) := by
  refine ⟨by decide +kernel, by decide, by decide +kernel, by decide +kernel, by decide +kernel, by decide +kernel,
    by decide +kernel, by decide +kernel, by decide +kernel, fun i hi c h => ?_⟩
  have hne : ∀ i < 3, (hotpCode .sha1 (secret readyGold) (BitVec.ofNat 64 (readyGold.time.toNat / 30 - i))).map
      Prod.snd ≠ some (format6 180631) := by decide +kernel
  exact hne i (by omega) (by rw [h]; rfl)

theorem witness_CommandsLeaveTheOtherRegisters :
    exec (.hotp 1) ready = .next busyHotp ∧ exec (.totp 1) readyGold = .next busyTotp ∧
    exec (.verify 1 true) readyGold = .next busyVerify ∧
    exec (.clear 0) ready = .next (nextOf (exec (.clear 0) ready)) :=
  ⟨eq_nextOf (by decide +kernel), eq_nextOf (by decide +kernel), eq_nextOf (by decide +kernel), rfl⟩

theorem witness_CompleteLeavesTheOtherRegisters :
    complete busyHotp = .next (nextOf (complete busyHotp)) ∧ complete ready = .next ready ∧
    ready.status.phase ≠ .busy := ⟨eq_nextOf (by decide +kernel), rfl, by decide +kernel⟩

theorem witness_PhaseChangesOnlyAsTheTableSays :
    (withBus busyHotp []).Inv ∧ (withBus busyHotp [.complete]).Inv ∧ (withBus busyHotp [.reset]).Inv ∧
    (withBus busyHotp [.read 0x04 4]).Inv ∧ (withBus busyHotp [.write 0x10 4 9#32]).Inv ∧
    (withBus busyHotp [.write 0x00 4 0x12#32]).Inv ∧ (withBus busyHotp [.write 0x00 4 0xF#32]).Inv ∧
    (withBus State.reset [.write 0x00 4 0#32]).Inv ∧ (withBus State.reset [.write 0x00 4 0x11#32]).Inv ∧
    (withBus State.reset []).Inv ∧ (withBus State.reset [.complete]).Inv ∧ State.reset.status.phase ≠ .busy ∧
    ([[], [.complete], [.reset], [.read 0x04 4], [.write 0x10 4 9#32], [.write 0x00 4 0x12#32],
      [.write 0x00 4 0xF#32]] : List (List BusEvent)).all (fun b =>
        goesOn (step (withBus busyHotp b))) = true ∧
    ([[], [.complete], [.write 0x00 4 0#32], [.write 0x00 4 0x11#32]] : List (List BusEvent)).all (fun b =>
        goesOn (step (withBus State.reset b))) = true ∧
    decode 0x12#32 = .ok (.totp 1) ∧ decode 0xF#32 = .ok (.clear 0) ∧ decode 0#32 = .error (.reservedOp 0) ∧
    Instr.ChecksPass ready (.hotp 1) ∧ ¬Instr.ChecksPass State.reset (.hotp 1) := by
  refine ⟨busyHotp_inv _, busyHotp_inv _, busyHotp_inv _, busyHotp_inv _, busyHotp_inv _, busyHotp_inv _,
    busyHotp_inv _, reset_inv _, reset_inv _, reset_inv _, reset_inv _, by decide, by decide +kernel, by decide +kernel,
    by decide, by decide, by decide,
    ⟨by decide, by decide +kernel, by decide +kernel⟩, fun h => ?_⟩
  exact absurd h.2.1 (by decide +kernel)

/-- Two states that differ in everything HOTP does not read, and two for the other commands. -/
theorem witness_OutcomeDependsOnTheOperandsAlone :
    ready.cfg = ({ ready with time := 7#64, tolerance := 9#32 } : State).cfg ∧ ready.status.phase ≠ .busy ∧
    Instr.SameOperands ready { ready with time := 7#64, tolerance := 9#32, pcode := 1#64 } (.hotp 1) ∧
    Instr.SameOperands ready { ready with time := 7#64, tolerance := 9#32, pcode := 1#64 } (.totp 1) ∧
    Instr.SameOperands readyGold { readyGold with counter := 0#64, tolerance := 9#32 } (.verify 1 false) ∧
    Instr.SameOperands readyGold { readyGold with counter := 0#64 } (.verify 1 true) ∧
    Instr.SameOperands ready busyTotp (.clear 0) := by
  refine ⟨rfl, by decide +kernel, ⟨rfl, rfl, rfl⟩, ⟨rfl, rfl, rfl⟩, ⟨rfl, rfl, rfl, ?_, rfl, rfl⟩,
    ⟨rfl, rfl, rfl, fun _ => rfl, rfl, rfl⟩, trivial⟩
  simp

/-- Another byte 20 of the buffer, the first one above the key. -/
theorem witness_KeyBytesAboveTheLengthAreIgnored :
    ready.status.phase ≠ .busy ∧ ready.key.write 20 7#8 ≠ ready.key ∧
    ∀ x < ready.keyLen.toNat, (ready.key.write 20 7#8).read x = ready.key.read x := by decide +kernel

theorem witness_SecondCommandWithoutAKeyFails :
    busyHotp.status.phase = .busy ∧ complete busyHotp = .next (nextOf (complete busyHotp)) ∧
    (resolve 1).isSome = true := ⟨by decide +kernel, eq_nextOf (by decide +kernel), by decide⟩

theorem witness_EveryStepKeepsTheInvariant :
    (withBus busyHotp []).Inv ∧ step (withBus busyHotp []) = .next (nextOf (step (withBus busyHotp []))) :=
  ⟨busyHotp_inv _, eq_nextOf (by decide +kernel)⟩

theorem witness_NoStepStops : (withBus busyHotp [.complete]).Inv := busyHotp_inv _

theorem witness_EveryCallEndsWithTheSchedule : (withBus busyHotp [.read 0x04 4, .write 0x10 4 9#32]).Inv :=
  busyHotp_inv _

theorem witness_HotpAndTotpSequencesReturnTheCode :
    State.reset.status.phase ≠ .busy ∧ State.reset.key.wf State.reset.cfg.keyMaxBytes = true ∧ 1 ≤ keyText.length ∧
    keyText.length ≤ State.reset.cfg.keyMaxBytes ∧ keyText.length < 2 ^ 32 ∧ 1#64 ≠ 0#64 ∧
    (withBus State.reset (hotpSequence .sha1 keyText 1#64 2)).bus = hotpSequence .sha1 keyText 1#64 2 ++ [] ∧
    (withBus State.reset (totpSequence .sha1 keyText 1#64 0)).bus = totpSequence .sha1 keyText 1#64 0 ++ [] := by
  decide +kernel

theorem witness_TotpValidateSequenceReturnsTheVerdict :
    State.reset.status.phase ≠ .busy ∧ State.reset.key.wf State.reset.cfg.keyMaxBytes = true ∧ 1 ≤ keyGold.length ∧
    keyGold.length ≤ State.reset.cfg.keyMaxBytes ∧ keyGold.length < 2 ^ 32 ∧ 1 ≤ (format6 180631).length ∧
    (format6 180631).length < 2 ^ 32 ∧
    (withBus State.reset (totpValidateSequence .sha1 keyGold (format6 180631) none 1700000000#64 1)).bus =
      totpValidateSequence .sha1 keyGold (format6 180631) none 1700000000#64 1 ++ [] := by decide +kernel

end Sys2Proof.Tests
end

/-! PROOF. State and reset (spec/10_state.md): the reset values (R28) and the erase of the secret at the end of every
call (R25). -/

namespace Sys2Proof.Machine

/-- `STATUS` reads as 0 after reset (R12, R28): each of its fields has the number 0. -/
@[simp] theorem Status.reset_word : Status.reset.word = 0#32 := by decide

/-- Settles O1: `STATUS` by its reset word, the key bytes by the empty buffer, every other register by its own field of
`State.resetWith`. -/
theorem resetLeavesEveryRegisterZero : Obligations.ResetLeavesEveryRegisterZero := by
  intro cfg
  have hstatus : (State.resetWith cfg).status = Status.reset := rfl
  have hkey : (State.resetWith cfg).key = [] := rfl
  rw [hstatus, hkey]
  exact ⟨Status.reset_word, Status.reset_phase, rfl, rfl, rfl, rfl, rfl, rfl, rfl, rfl, rfl, Memory.read_nil, rfl⟩

/-- `t` holds no secret, and the operand registers that `wipe()` leaves alone are as in `s` (R25). -/
def State.ErasedFrom (t s : State) : Prop :=
  t.Wiped ∧ t.counter = s.counter ∧ t.time = s.time ∧ t.tolerance = s.tolerance ∧ t.pcodeLen = s.pcodeLen ∧
    t.pcode = s.pcode

section
variable (s : State)

/-! The four operations that end a call (R230, R170, R180, R211) are `wipe()` and writes of registers that are not
operands. -/

@[simp] theorem raise_erasedFrom (e : ErrCode) (info : Word32) (site : Site) :
    (raise e info site s).ErasedFrom s := by
  simp [State.ErasedFrom, State.Wiped]

@[simp] theorem publishCode_erasedFrom (code : Nat) (str : List Byte) : (publishCode code str s).ErasedFrom s := by
  simp [State.ErasedFrom, State.Wiped]

@[simp] theorem publishMatch_erasedFrom (matched : Bool) : (publishMatch matched s).ErasedFrom s := by
  simp [State.ErasedFrom, State.Wiped]

@[simp] theorem clear_erasedFrom : (clear s).ErasedFrom s := by
  simp [State.ErasedFrom, State.Wiped]

/-- An error raised after a call has begun erases what the call found: beginning it touches no operand (R207). -/
@[simp] theorem raise_beginCall_erasedFrom (op : BitVec 4) (e : ErrCode) (info : Word32) (site : Site) :
    (raise e info site (beginCall op s)).ErasedFrom s :=
  raise_erasedFrom (beginCall op s) e info site

end

variable {s t : State}

/-- A call that has begun and is not BUSY failed an entry check (R226), so it ended in an error. -/
theorem Entered.erasedFrom (h : Entered s t) (hb : t.status.phase ≠ .busy) : t.ErasedFrom s := by
  cases h with
  | failed op e info _ _ => exact raise_beginCall_erasedFrom s op e info .entry
  | started sn _ _ => exact absurd (Status.enterBusy_phase _) hb

/-- A finished call is erased, whichever of the ends of R209 it has. -/
theorem Finished.erasedFrom {sn : Snap} (h : Finished s sn t) : t.ErasedFrom s := by
  cases h with
  | hotp code _ _ => exact publishCode_erasedFrom s code _
  | totp code _ _ => exact publishCode_erasedFrom s code _
  | hit _ => exact publishMatch_erasedFrom s true
  | miss _ => exact publishMatch_erasedFrom s false
  | under i _ => exact raise_erasedFrom s .invalidCounter _ .verifyLoop

/-- A finished call is in DONE or ERROR (R209). -/
theorem Finished.phase {sn : Snap} (h : Finished s sn t) : t.status.phase = .done ∨ t.status.phase = .error := by
  cases h with
  | hotp => exact .inl rfl
  | totp => exact .inl rfl
  | hit => exact .inl rfl
  | miss => exact .inl rfl
  | under => exact .inr rfl

/-- A command after which the block is not BUSY: CLEAR, or a call that failed its entry checks (R25, R211). A command
dropped while BUSY leaves the block BUSY. -/
theorem exec_erasedFrom {i : Instr} (h : exec i s = .next t) (hb : t.status.phase ≠ .busy) : t.ErasedFrom s := by
  obtain ⟨_, _, hx⟩ | ⟨_, hs, hx⟩ | ⟨_, _, u, hx, hu⟩ := exec_cases i s <;> cases hx.symm.trans h
  · exact clear_erasedFrom s
  · exact absurd hs hb
  · exact hu.erasedFrom hb

/-- An ILLEGAL word after which the block is not BUSY raised InvalidCommand (R221). -/
theorem illegalCommand_erasedFrom {w : Word32} (h : illegalCommand w s = .next t) (hb : t.status.phase ≠ .busy) :
    t.ErasedFrom s := by
  obtain ⟨hs, hx⟩ | ⟨_, hx⟩ := illegalCommand_cases w s <;> cases hx.symm.trans h
  · exact absurd hs hb
  · exact raise_beginCall_erasedFrom s _ .invalidCommand w .entry

/-- `Complete` of a BUSY block finishes its call (R210). -/
theorem complete_finished (hs : s.status.phase = .busy) (h : complete s = .next t) : ∃ sn, Finished s sn t := by
  obtain ⟨hn, _⟩ | ⟨_, _, hx⟩ | ⟨sn, u, _, _, hx, hu⟩ := complete_cases s
  · exact absurd hs hn
  · cases hx.symm.trans h
  · cases hx.symm.trans h
    exact ⟨sn, hu⟩

/-- Settles O4: a command and an ILLEGAL word by what each can do when it does not leave the block BUSY, `Complete` by
the ends of a finished call. -/
theorem secretIsErasedWheneverACallEnds : Obligations.SecretIsErasedWheneverACallEnds := by
  refine ⟨fun i s t h hb => exec_erasedFrom h hb, fun w s t h hb => illegalCommand_erasedFrom h hb,
    fun s t hs h => ?_⟩
  obtain ⟨sn, hf⟩ := complete_finished hs h
  refine ⟨hf.erasedFrom, ?_⟩
  obtain hp | hp := hf.phase <;> simp [hp]

end Sys2Proof.Machine

/-! PROOF. The register window (spec/20_memory.md): the reserved and the read-only words (R44). -/

namespace Sys2Proof.Machine

/-- A read that reaches a word answers that word's register (R200). -/
theorem hostRead_port {s : State} {off size : Nat} {p : Port} (hp : portOf s.cfg off size = some p) :
    hostRead off size s = answer (.data (regRead p s)) s := by
  simp only [hostRead, hp]

/-- A write of a word other than `CMD` while the block is BUSY (R205); `step_store` is the write in the other phases. -/
theorem step_drop {s : State} {off : Nat} {v : Word32} {p : Port} {rest : List BusEvent} (hb : s.status.phase = .busy)
    (h : s.bus = .write off 4 v :: rest) (hp : portOf s.cfg off 4 = some p) (hc : p ≠ .cmd) :
    step s = .next (dropWrite (answer .written (popEvent rest s))) := by
  rw [step_write_port h hp hc]
  exact whenAccepted_of_busy _ hb

/-- A word of the map, not `CMD`, that holds no operand: a write of it stores nothing (R44). -/
structure Port.StoresNothing (p : Port) : Prop where
  ne_cmd : p ≠ .cmd
  store : ∀ (v : Word32) (s : State), storePort p v s = s

theorem Port.reserved_storesNothing (off : Nat) : (Port.reserved off).StoresNothing := ⟨nofun, fun _ _ => rfl⟩

/-- The words the map of R41 marks read-only, by offset. -/
theorem portAt_readOnly_storesNothing {off : Nat} (h : off ∈ [0x04, 0x08, 0x30, 0x34, 0x38]) :
    (portAt off).StoresNothing := by
  simp only [List.mem_cons, List.not_mem_nil, or_false] at h
  rcases h with rfl | rfl | rfl | rfl | rfl <;> exact ⟨nofun, fun _ _ => rfl⟩

/-- Every read-only word stands below the key buffer at a multiple of 4 (R41). -/
theorem readOnly_aligned {off : Nat} (h : off ∈ [0x04, 0x08, 0x30, 0x34, 0x38]) : off % 4 = 0 ∧ off < 0x100 := by
  simp only [List.mem_cons, List.not_mem_nil, or_false] at h
  omega

/-- An aligned word below the key buffer is reached, whatever the capacity (R41, R42). -/
theorem portOf_below_key {cfg : Config} {off : Nat} (h4 : off % 4 = 0) (h : off < 0x100) :
    portOf cfg off 4 = some (portAt off) := portOf_aligned h4 (by omega)

/-- Settles O10: the read by the reserved word's register, which is 0; the write by the word it reaches, which stores
nothing, so that `step_store` and `step_drop` give the next state in the two phases. -/
theorem readOnlyAndReservedWritesAreIgnored : Obligations.ReadOnlyAndReservedWritesAreIgnored := by
  intro s off v rest
  refine ⟨fun h4 hlo hhi => ?_, fun hoff hbus => ?_⟩
  · have hp : portOf s.cfg off 4 = some (.reserved off) := by rw [portOf_below_key h4 hhi, portAt_reserved hlo hhi]
    rw [hostRead_port hp]
    rfl
  · obtain ⟨p, hp, hnone⟩ : ∃ p, portOf s.cfg off 4 = some p ∧ p.StoresNothing := by
      obtain hro | ⟨h4, hlo, hhi⟩ := hoff
      · obtain ⟨h4, hhi⟩ := readOnly_aligned hro
        exact ⟨_, portOf_below_key h4 hhi, portAt_readOnly_storesNothing hro⟩
      · exact ⟨_, portOf_below_key h4 hhi, portAt_reserved hlo hhi ▸ Port.reserved_storesNothing off⟩
    refine ⟨fun hn => ?_, fun hb => step_drop hb hbus hp hnone.ne_cmd⟩
    rw [step_store hn hbus hp hnone.ne_cmd, hnone.store]
    rfl

end Sys2Proof.Machine

/-! PROOF. HashProvider (spec/40_hash_provider.md): the rows of the algorithm table (R80), key preparation (R83) and the
HMAC construction (R82). -/

namespace Sys2Proof.Machine

/-- Each row is the one its own code selects (R80, R81). -/
theorem resolve_algCode (a : Alg) : resolve (algCode a) = some a := by
  cases a <;> rfl

/-- Settles O20: the codes below 12 one by one, the others by their form `m + 12`, which no row and no key of the list
matches; the digest lengths by `hashFn_length`. -/
theorem algorithmCodesSelectTheElevenRows : Obligations.AlgorithmCodesSelectTheElevenRows := by
  refine ⟨fun n => ?_, fun a msg => ⟨resolve_algCode a, hashFn_length a msg⟩⟩
  obtain hn | hn := Nat.lt_or_ge n 12
  · interval_cases n <;> rfl
  · obtain ⟨m, rfl⟩ := Nat.exists_eq_add_of_le' hn
    rfl

/-- A key no longer than a block is not hashed (R83). -/
theorem prepareKey_of_le {a : Alg} {key : List Byte} (h : key.length ≤ blockSize a) :
    prepareKey a key = key ++ List.replicate (blockSize a - key.length) 0#8 := by
  simp only [prepareKey, if_neg (Nat.not_lt.mpr h)]

/-- A key longer than a block is replaced by its hash (R83). -/
theorem prepareKey_of_lt {a : Alg} {key : List Byte} (h : blockSize a < key.length) :
    prepareKey a key = hashFn a key ++ List.replicate (blockSize a - digestLen a) 0#8 := by
  simp only [prepareKey, if_pos h, hashFn_length]

/-- The key block is a whole block: neither a short key nor a digest is longer than one (R83). -/
@[simp] theorem prepareKey_length (a : Alg) (key : List Byte) : (prepareKey a key).length = blockSize a := by
  obtain h | h := le_or_gt key.length (blockSize a)
  · rw [prepareKey_of_le h, List.length_append, List.length_replicate, Nat.add_sub_cancel' h]
  · obtain ⟨-, hd⟩ := digestLen_bounds a
    rw [prepareKey_of_lt h, List.length_append, List.length_replicate, hashFn_length, Nat.add_sub_cancel' hd.le]

/-- Settles O21, by the two cases of key preparation. -/
theorem preparedKeyFillsABlock : Obligations.PreparedKeyFillsABlock :=
  fun a key => ⟨prepareKey_length a key, prepareKey_of_le, prepareKey_of_lt⟩

/-- `A ^ rep(pad, len(A))` adds the pad byte to every byte (R82). -/
theorem xorBytes_replicate (bs : List Byte) (pad : Byte) :
    xorBytes bs (List.replicate bs.length pad) = bs.map (· ^^^ pad) := by
  rw [xorBytes, ← List.map_const', List.zipWith_map_right, List.zipWith_self]

/-- The pad is as long as the key block, so it reaches every byte of it (R82). -/
theorem paddedKey_eq_map (pad : Byte) (a : Alg) (key : List Byte) :
    paddedKey pad a key = (prepareKey a key).map (· ^^^ pad) := by
  rw [paddedKey, ← prepareKey_length a key, xorBytes_replicate]

/-- Settles O22: both key blocks byte by byte, the length by `hmac_length`. -/
theorem hmacHashesTheInnerDigest : Obligations.HmacHashesTheInnerDigest := by
  intro a key msg
  refine ⟨?_, hmac_length a key msg⟩
  rw [hmac, paddedKey_eq_map, paddedKey_eq_map]

end Sys2Proof.Machine

/-! PROOF. The SHA-1 and SHA-2 engines (spec/41_sha1_sha2.md): the padding and the cut into blocks and words (R101), and
the tables as their formulas give them (R127). -/

namespace Sys2Proof.Machine

/-! ### The cut into blocks -/

/-- The first `k` blocks, one after another, are the first `k * n` bytes. -/
theorem flatten_map_take_drop (n k : Nat) (bs : List Byte) :
    ((List.range k).map fun i => (bs.drop (i * n)).take n).flatten = bs.take (k * n) := by
  induction k with
  | zero => simp
  | succ k ih => simp [List.range_succ, ih, Nat.succ_mul, List.take_add]

/-- A sequence of whole blocks loses no byte when it is cut (R101). -/
theorem blocksOf_flatten {n : Nat} {bs : List Byte} (h : bs.length % n = 0) : (blocksOf n bs).flatten = bs := by
  rw [blocksOf, flatten_map_take_drop, Nat.div_mul_cancel (Nat.dvd_of_mod_eq_zero h), List.take_length]

/-- Only whole blocks are cut off (R101). -/
theorem length_of_mem_blocksOf {n : Nat} {bs block : List Byte} (h : block ∈ blocksOf n bs) : block.length = n := by
  obtain ⟨i, hi, rfl⟩ := List.mem_map.mp h
  have hend : (i + 1) * n ≤ bs.length :=
    (Nat.mul_le_mul_right n (List.mem_range.mp hi)).trans (Nat.div_mul_le_self _ _)
  rw [Nat.succ_mul] at hend
  rw [List.length_take, List.length_drop]
  omega

/-- A block of sixteen words of `w` bits is read word by word from its bytes (R101). -/
theorem blockWords_of_length {w : Nat} {block : List Byte} (hw : 0 < w / 8) (h : block.length = 16 * (w / 8)) :
    blockWords w block =
      (List.range 16).map fun t => BitVec.ofNat w (be ((block.drop (w / 8 * t)).take (w / 8))) := by
  have hcount : block.length / (w / 8) = 16 := by rw [h, Nat.mul_div_cancel 16 hw]
  simp only [blockWords, blocksOf, hcount, List.map_map, Function.comp_def, Nat.mul_comm]

/-! ### The padding -/

/-- How many zero bytes the padding of a message of `len` bytes inserts (R101). -/
def mdZeros (blk lenBytes len : Nat) : Nat := (blk - (len + 1 + lenBytes) % blk) % blk

theorem mdPad_eq (blk lenBytes : Nat) (msg : List Byte) :
    mdPad blk lenBytes msg = msg ++ [0x80#8] ++ List.replicate (mdZeros blk lenBytes msg.length) 0#8 ++
      tobe lenBytes (8 * msg.length) := by
  simp [mdPad, mdZeros]

theorem mdPad_length (blk lenBytes : Nat) (msg : List Byte) :
    (mdPad blk lenBytes msg).length = msg.length + 1 + lenBytes + mdZeros blk lenBytes msg.length := by
  simp only [mdPad_eq, List.length_append, List.length_singleton, List.length_replicate, tobe_length]
  omega

/-- Fewer zeros than a block: a block less would not leave room for the byte 0x80 and the length (R101). -/
theorem mdZeros_lt {blk : Nat} (hblk : 0 < blk) (lenBytes len : Nat) : mdZeros blk lenBytes len < blk :=
  Nat.mod_lt _ hblk

/-- The zeros fill the last block (R101). -/
theorem mdPad_length_mod {blk : Nat} (hblk : 0 < blk) (lenBytes : Nat) (msg : List Byte) :
    (mdPad blk lenBytes msg).length % blk = 0 := by
  rw [mdPad_length, mdZeros, Nat.add_mod_mod]
  generalize msg.length + 1 + lenBytes = len
  have hlt := Nat.mod_lt len hblk
  have hfill : len + (blk - len % blk) = blk * (len / blk + 1) := by
    rw [Nat.mul_succ]
    have := Nat.div_add_mod len blk
    omega
  rw [hfill, Nat.mul_mod_right]

/-- Settles O23: the length is a multiple of the block by `mdPad_length_mod` and the smallest one by `mdZeros_lt`;
cutting a whole number of blocks loses no byte; the words are those of `blockWords_of_length`. -/
theorem sha2PaddingFillsWholeBlocks : Obligations.Sha2PaddingFillsWholeBlocks := by
  intro blk lenBytes hsize
  have hblk : 0 < blk := by omega
  have hbytes : blk / 2 / 8 = blk / 16 := Nat.div_div_eq_div_mul blk 2 8
  refine ⟨fun msg => ?_, fun block hlen => ?_⟩
  · have hmod := mdPad_length_mod hblk lenBytes msg
    have hlength := mdPad_length blk lenBytes msg
    have hzeros := mdZeros_lt hblk lenBytes msg.length
    exact ⟨⟨_, mdPad_eq blk lenBytes msg⟩, hmod, by omega, by omega, blocksOf_flatten hmod,
      fun _ => length_of_mem_blocksOf⟩
  · rw [blockWords_of_length (by omega) (by omega), hbytes]

/-! ### The tables -/

/-- The first eighty primes, 2 to 409 (R127). -/
def first80Primes : List Nat :=
  [2, 3, 5, 7, 11, 13, 17, 19, 23, 29, 31, 37, 41, 43, 47, 53, 59, 61, 67, 71, 73, 79, 83, 89, 97, 101, 103, 107,
   109, 113, 127, 131, 137, 139, 149, 151, 157, 163, 167, 173, 179, 181, 191, 193, 197, 199, 211, 223, 227, 229,
   233, 239, 241, 251, 257, 263, 269, 271, 277, 281, 283, 293, 307, 311, 313, 317, 331, 337, 347, 349, 353, 359,
   367, 373, 379, 383, 389, 397, 401, 409]

/-- Trial division below 410 leaves the first eighty primes. -/
theorem trialDivision_eq_first80Primes :
    ((List.range 410).filter fun n => 2 ≤ n && (List.range n).all fun d => d < 2 || n % d != 0) = first80Primes := by
  decide +kernel

/-- `k` is the first 64 fractional bits of the cube root of `p`, whose integer part is below 8 (R127). -/
def isCbrtFraction (p : Nat) (k : Word64) : Bool :=
  (List.range 8).any fun z => (z * 2 ^ 64 + k.toNat) ^ 3 ≤ p * 2 ^ 192 && p * 2 ^ 192 < (z * 2 ^ 64 + k.toNat + 1) ^ 3

/-- `k` is the first 64 fractional bits of the square root of `p`, whose integer part is below 8 (R127). -/
def isSqrtFraction (p : Nat) (k : Word64) : Bool :=
  (List.range 8).any fun z => (z * 2 ^ 64 + k.toNat) ^ 2 ≤ p * 2 ^ 128 && p * 2 ^ 128 < (z * 2 ^ 64 + k.toNat + 1) ^ 2

/-- The eight words of an initial value, `h[0]` first (R110, R120). -/
def Sha2Regs.words {w : Nat} (r : Sha2Regs w) : List (BitVec w) := [r.a, r.b, r.c, r.d, r.e, r.f, r.g, r.hh]

/-- An initial value with 0xa5a5a5a5a5a5a5a5 added to every word: the one SHA-512/t starts from (R127). -/
def Sha2Regs.flipped (r : Sha2Regs 64) : Sha2Regs 64 :=
  let f (x : Word64) := x ^^^ 0xa5a5a5a5a5a5a5a5#64
  ⟨f r.a, f r.b, f r.c, f r.d, f r.e, f r.f, f r.g, f r.hh⟩

theorem k512_isCbrtFraction : (first80Primes.zip k512).all (fun q => isCbrtFraction q.1 q.2) = true := by
  decide +kernel

/-- The round constants of the 32-bit core are the high halves of those of the 64-bit core (R127). -/
theorem k256_eq_highHalf : k256 = (k512.take 64).map highHalf := by decide +kernel

theorem iv512_isSqrtFraction :
    ((first80Primes.take 8).zip iv512.words).all (fun q => isSqrtFraction q.1 q.2) = true := by decide +kernel

theorem iv256_eq_highHalf : iv256.words = iv512.words.map highHalf := by decide +kernel

/-- The SHA-384 words come from the ninth to the sixteenth prime (R127). -/
theorem iv384_isSqrtFraction :
    (((first80Primes.drop 8).take 8).zip iv384.words).all (fun q => isSqrtFraction q.1 q.2) = true := by
  decide +kernel

theorem iv224_eq_lowHalf : iv224.words = iv384.words.map lowHalf := by decide +kernel

/-- The bytes hashed are "SHA-512/224" (R127). -/
theorem iv512t224_eq_digest : wordBytes iv512t224.words =
    sha2 sha512Core iv512.flipped [0x53, 0x48, 0x41, 0x2d, 0x35, 0x31, 0x32, 0x2f, 0x32, 0x32, 0x34] := by
  decide +kernel

/-- The bytes hashed are "SHA-512/256" (R127). -/
theorem iv512t256_eq_digest : wordBytes iv512t256.words =
    sha2 sha512Core iv512.flipped [0x53, 0x48, 0x41, 0x2d, 0x35, 0x31, 0x32, 0x2f, 0x32, 0x35, 0x36] := by
  decide +kernel

/-- The SHA-1 constants are the square roots of 2, 3, 5 and 10, scaled by 2^30 and rounded down (R127). -/
theorem sha1K_isScaledSqrt : [(2, sha1K 0), (3, sha1K 20), (5, sha1K 40), (10, sha1K 60)].all (fun q =>
    decide (q.2.toNat ^ 2 ≤ q.1 * 2 ^ 60) && decide (q.1 * 2 ^ 60 < (q.2.toNat + 1) ^ 2)) = true := by
  decide +kernel

/-- Settles O28: the primes by trial division, then each table from its formula. -/
theorem sha2TablesAreTheRootsOfThePrimes : Obligations.Sha2TablesAreTheRootsOfThePrimes := by
  unfold Obligations.Sha2TablesAreTheRootsOfThePrimes
  rw [trialDivision_eq_first80Primes]
  exact ⟨rfl, rfl, rfl, k512_isCbrtFraction, k256_eq_highHalf, iv512_isSqrtFraction, iv256_eq_highHalf,
    iv384_isSqrtFraction, iv224_eq_lowHalf, iv512t224_eq_digest, iv512t256_eq_digest, sha1K_isScaledSqrt⟩

end Sys2Proof.Machine

/-! PROOF. The SHA-3 engines (spec/42_sha3.md): the padding (R132), and the tables as their generators give them
(R139). -/

namespace Sys2Proof.Machine

/-! ### The padding -/

section
variable {r : Nat} {msg : List Byte}

/-- One byte missing: 0x86 holds both ends of the padding (R132). -/
theorem sha3Pad_of_eq_one (hq : r - msg.length % r = 1) : sha3Pad r msg = msg ++ [0x86#8] := by
  simp only [sha3Pad, if_pos hq]

/-- More bytes missing: 0x06 and 0x80 stand apart (R132). -/
theorem sha3Pad_of_ne_one (hq : r - msg.length % r ≠ 1) :
    sha3Pad r msg = msg ++ [0x06#8] ++ List.replicate (r - msg.length % r - 2) 0#8 ++ [0x80#8] := by
  simp only [sha3Pad, if_neg hq, List.append_assoc, List.cons_append, List.nil_append]

/-- The padding adds the missing bytes, no more (R132). -/
theorem sha3Pad_length (hr : 0 < r) : (sha3Pad r msg).length = msg.length + (r - msg.length % r) := by
  have hlt := Nat.mod_lt msg.length hr
  by_cases hq : r - msg.length % r = 1
  · rw [sha3Pad_of_eq_one hq, hq, List.length_append, List.length_singleton]
  · simp only [sha3Pad_of_ne_one hq, List.length_append, List.length_singleton, List.length_replicate]
    omega

/-- The padded message is a whole number of blocks (R132). -/
theorem sha3Pad_length_mod (hr : 0 < r) : (sha3Pad r msg).length % r = 0 := by
  rw [sha3Pad_length hr, ← Nat.add_sub_assoc (Nat.mod_lt _ hr).le]
  exact Nat.sub_mod_eq_zero_of_mod_eq (by rw [Nat.add_mod_right, Nat.mod_mod])

end

/-- Settles O24: the two forms of the padding; its length is a multiple of the rate by `sha3Pad_length_mod`, and the
smallest one above the message's because 1 to `r` bytes are missing. -/
theorem sha3PaddingFillsWholeBlocks : Obligations.Sha3PaddingFillsWholeBlocks := by
  intro r msg hr
  have hlt := Nat.mod_lt msg.length hr
  have hlength := sha3Pad_length (msg := msg) hr
  exact ⟨sha3Pad_of_eq_one, sha3Pad_of_ne_one, sha3Pad_length_mod hr, by omega, by omega⟩

/-! ### The tables -/

/-- A fold that puts the successor of the first element in front writes down the iterates, the last one first. -/
theorem reverse_foldl_push {α β : Type} {next : α → α} {push : List α → β → List α}
    (hpush : ∀ a as b, push (a :: as) b = next a :: a :: as) (bs : List β) (a : α) (as : List α) :
    (bs.foldl push (a :: as)).reverse = as.reverse ++ List.iterate next a (bs.length + 1) := by
  induction bs generalizing a as with
  | nil => simp [List.iterate]
  | cons b bs ih => rw [List.foldl_cons, hpush, ih, List.reverse_cons, List.append_assoc]; rfl

/-- The same fold, started at `a` alone and run `n` times. -/
theorem reverse_foldl_range_push {α : Type} {next : α → α} {push : List α → Nat → List α}
    (hpush : ∀ a as i, push (a :: as) i = next a :: a :: as) (n : Nat) (a : α) :
    ((List.range n).foldl push [a]).reverse = List.iterate next a (n + 1) := by
  rw [reverse_foldl_push hpush, List.length_range, List.reverse_nil, List.nil_append]

/-- The move of the walk over the rotation offsets (R139). -/
def rhoNext (p : Nat × Nat) : Nat × Nat := (p.2, (2 * p.1 + 3 * p.2) % 5)

/-- The step of the 8-bit shift register (R139). -/
def lfsrNext (r : Nat) : Nat := if r / 128 % 2 = 1 then (2 * r) % 256 ^^^ 0x71 else 2 * r

/-- `rc(k)`, the output bit of step `k` of the shift register, for the 168 steps of the twenty-four rounds (R139). -/
def lfsrBit (k : Nat) : Nat := (List.iterate lfsrNext 1 168).getD k 0 % 2

/-- The walk from `(1, 0)` meets the offsets in the order of the triangular numbers (R139). -/
theorem rhoAt_walk : ((List.range 24).all fun t =>
    rhoAt ((List.iterate rhoNext (1, 0) 24).getD t (0, 0)).1 ((List.iterate rhoNext (1, 0) 24).getD t (0, 0)).2 ==
      (t + 1) * (t + 2) / 2 % 64) = true := by
  decide

/-- Bit `2^j - 1` of a round constant is `rc(7 rnd + j)`, the other bits are 0 (R139). -/
theorem keccakRC_eq_lfsrBits : keccakRC = (List.range 24).map fun rnd =>
    BitVec.ofNat 64 ((List.range 7).foldl (fun acc j => acc + lfsrBit (7 * rnd + j) * 2 ^ (2 ^ j - 1)) 0) := by
  decide +kernel

/-- Settles O29: the walk and the shift register are the iterates of their steps, and the tables agree with those. -/
theorem keccakTablesComeFromTheirGenerators : Obligations.KeccakTablesComeFromTheirGenerators := by
  unfold Obligations.KeccakTablesComeFromTheirGenerators
  intro path lfsr bit
  have hpath : path.reverse = List.iterate rhoNext (1, 0) 24 := reverse_foldl_range_push (fun _ _ _ => rfl) 23 _
  have hlfsr : lfsr.reverse = List.iterate lfsrNext 1 168 := reverse_foldl_range_push (fun _ _ _ => rfl) 167 _
  have hbit : bit = lfsrBit := by funext k; simp only [bit, hlfsr, lfsrBit]
  rw [hpath, hbit]
  exact ⟨rfl, rhoAt_walk, keccakRC_eq_lfsrBits⟩

end Sys2Proof.Machine

/-! PROOF. CounterCodec (spec/43_counter_codec.md): the counter as the HMAC message (R150). -/

namespace Sys2Proof.Machine

/-- Byte `j` of `tobe_n(v)` is the byte of `v` with `n - 1 - j` bytes below it. -/
theorem tobe_getD {n j : Nat} (hj : j < n) (v : Nat) :
    (tobe n v).getD j 0 = BitVec.ofNat 8 (v / 2 ^ (8 * (n - 1 - j))) := by
  rw [List.getD_eq_getElem _ _ (by rwa [tobe_length])]
  simp only [tobe, List.getElem_map, List.getElem_range]

/-- Byte `j` of the message is `counter[63-8j : 56-8j]`: 7 - j bytes of the counter stand below it (R150). -/
theorem encodeCounter_getD (c : Word64) {j : Nat} (hj : j < 8) :
    (encodeCounter c).getD j 0 = c.extractLsb' (56 - 8 * j) 8 := by
  have hstart : 8 * (8 - 1 - j) = 56 - 8 * j := by omega
  rw [encodeCounter, tobe_getD hj, hstart, BitVec.extractLsb', Nat.shiftRight_eq_div_pow]

/-- The message reads back as the counter, all 64 bits of it (R150, R154). -/
theorem be_encodeCounter (c : Word64) : be (encodeCounter c) = c.toNat := by
  rw [encodeCounter, be_tobe]
  exact Nat.mod_eq_of_lt c.isLt

/-- Settles O30: the length and the reading are those of `tobe_8`; each byte by `encodeCounter_getD`. -/
theorem counterMessageIsBigEndian : Obligations.CounterMessageIsBigEndian :=
  fun c => ⟨tobe_length 8 c.toNat, be_encodeCounter c, fun _ hj => encodeCounter_getD c hj⟩

end Sys2Proof.Machine

/-! PROOF. OTPEngine (spec/44_otp_engine.md): truncation (R161, R162), reduction (R163), formatting (R164), the code
function they make up (R160), and the two commands whose result is a code (R170, R171). -/

namespace Sys2Proof.Machine

/-- The offset of an HMAC is the low nibble of its byte `L - 1`: the digest has its 20 bytes or more, so it has a last
byte and the bound check passes (R161, R84). -/
theorem truncOffset_hmac (a : Alg) (key msg : List Byte) :
    truncOffset (hmac a key msg) = some (((hmac a key msg).getD (digestLen a - 1) 0).toNat % 16) := by
  have hlen := hmac_length a key msg
  obtain ⟨h20, -⟩ := digestLen_bounds a
  obtain ⟨b, hlast, hoff⟩ := truncOffset_of_length (hash := hmac a key msg) (hlen ▸ h20)
  have hb : (hmac a key msg).getD (digestLen a - 1) 0 = b := by
    rw [List.getD_eq_getElem?_getD, ← hlen, ← List.getLast?_eq_getElem?, hlast, Option.getD_some]
  rw [hoff, hb]

/-- Settles O27: the offset by `truncOffset_hmac`; a nibble is at most 15, so the four bytes end by byte 18 of at least
20. -/
theorem truncationNeverPassesTheDigest : Obligations.TruncationNeverPassesTheDigest := by
  intro a key msg
  obtain ⟨h20, hblock⟩ := digestLen_bounds a
  have h64 : digestLen a ≤ 64 := by cases a <;> decide
  have hnibble := Nat.mod_lt ((hmac a key msg).getD (digestLen a - 1) 0).toNat (show 0 < 16 by decide)
  exact ⟨hmac_length a key msg, h20, h64, _, truncOffset_hmac a key msg, rfl, by omega, by omega⟩

/-- The four bytes from an offset whose window lies inside the sequence. -/
theorem take_four_drop {bs : List Byte} {i : Nat} (h : i + 4 ≤ bs.length) :
    (bs.drop i).take 4 = [bs.getD i 0, bs.getD (i + 1) 0, bs.getD (i + 2) 0, bs.getD (i + 3) 0] := by
  have hdrop (j : Nat) (hj : j < bs.length) : bs.drop j = bs.getD j 0 :: bs.drop (j + 1) := by
    rw [List.drop_eq_getElem_cons hj, List.getD_eq_getElem bs 0 hj]
  rw [hdrop i (by omega), hdrop (i + 1) (by omega), hdrop (i + 2) (by omega), hdrop (i + 3) (by omega)]
  rfl

/-- Masking the top bit of a byte takes it modulo 2^7. -/
theorem toNat_and_0x7F (b : Byte) : (b &&& 0x7F#8).toNat = b.toNat % 2 ^ 7 := by
  rw [BitVec.toNat_and]
  exact and_low_mask b.toNat 7

/-- The truncated value is the big-endian reading modulo 2^31: masking the first byte takes away bit 31 (R162). -/
theorem truncValue_eq_mod {hash : List Byte} {offset : Nat} (h : offset + 4 ≤ hash.length) :
    truncValue hash offset = be ((hash.drop offset).take 4) % 2 ^ 31 := by
  rw [take_four_drop h, truncValue, toNat_and_0x7F]
  simp only [be, List.foldl_cons, List.foldl_nil]
  omega

/-- Settles O31: a mask of the low 31 bits is a remainder modulo 2^31. -/
theorem truncatedValueIsMaskedBigEndian : Obligations.TruncatedValueIsMaskedBigEndian := by
  intro hash offset h
  rw [truncValue_eq_mod h]
  exact ⟨(and_low_mask _ 31).symm, Nat.mod_lt _ (by decide)⟩

/-- A digit's character is its number above 0x30, with no carry out of the byte (R164). -/
theorem toNat_digitChar (n : Nat) : (BitVec.ofNat 8 (0x30 + n % 10)).toNat = 0x30 + n % 10 := by
  rw [BitVec.toNat_ofNat]
  omega

/-- The string's decimal value is the code modulo 10^6 (R164, R165). -/
theorem decimalValue_format6 (code : Nat) :
    (format6 code).foldl (fun acc b => acc * 10 + (b.toNat - 0x30)) 0 = code % 1000000 := by
  simp only [format6, List.foldl_map, toNat_digitChar, Nat.add_sub_cancel_left]
  simp only [Config.digits, List.range_succ, List.range_zero, List.nil_append, List.cons_append, List.foldl_cons,
    List.foldl_nil]
  omega

/-- Settles O32: each character by `toNat_digitChar`; a code below 10^6 is its own remainder. -/
theorem codeStringIsSixDecimalDigits : Obligations.CodeStringIsSixDecimalDigits := by
  intro code hcode
  refine ⟨format6_length code, fun b hb => ?_, ?_⟩
  · obtain ⟨k, -, rfl⟩ := List.mem_map.1 hb
    rw [toNat_digitChar]
    omega
  · rw [decimalValue_format6]
    omega

/-- The steps after the offset: the value there, its remainder and the remainder's string (R160). -/
theorem codeOfDigest_of_truncOffset {hash : List Byte} {offset : Nat} (h : truncOffset hash = some offset) :
    codeOfDigest hash =
      some (truncValue hash offset % Config.modulus, format6 (truncValue hash offset % Config.modulus)) := by
  simp only [codeOfDigest, h]

/-- Settles O53: `hotpCode` is the code of the HMAC of the counter's message, whose offset is `truncOffset_hmac`'s. -/
theorem hotpCodeIsItsFiveSteps : Obligations.HotpCodeIsItsFiveSteps := by
  intro a key counter hash offset code
  have hoff : truncOffset hash = some offset := truncOffset_hmac a key (encodeCounter counter)
  have hcode : hotpCode a key counter = some (code, format6 code) := codeOfDigest_of_truncOffset hoff
  exact ⟨hoff, hcode, Nat.le_of_lt_succ (Nat.mod_lt _ (by decide)), rfl⟩

/-! ### The entry checks of a call, one equation for each outcome (R226) -/

section
variable {s : State} {op : BitVec 4} {alg : Nat} {a : Alg} {bad : Option (ErrCode × Word32)} {snapOf : Alg → Snap}

theorem enterCall_invalidAlgorithm (ha : resolve alg = none) :
    enterCall op alg bad snapOf s = raise .invalidAlgorithm (BitVec.ofNat 32 alg) .entry (beginCall op s) := by
  simp only [enterCall, ha]

theorem enterCall_invalidKey (ha : (resolve alg).isSome = true) (hk : keyLenLegal s = false) :
    enterCall op alg bad snapOf s = raise .invalidKey s.keyLen .entry (beginCall op s) := by
  obtain ⟨a, ha⟩ := Option.isSome_iff_exists.1 ha
  simp only [enterCall, ha, hk, Bool.false_eq_true, if_false]

theorem enterCall_bad (ha : (resolve alg).isSome = true) (hk : keyLenLegal s = true) {e : ErrCode} {info : Word32} :
    enterCall op alg (some (e, info)) snapOf s = raise e info .entry (beginCall op s) := by
  obtain ⟨a, ha⟩ := Option.isSome_iff_exists.1 ha
  simp only [enterCall, ha, hk, if_true]

theorem enterCall_started (ha : resolve alg = some a) (hk : keyLenLegal s = true) :
    enterCall op alg none snapOf s = enterBusy (snapOf a) (beginCall op s) := by
  simp only [enterCall, ha, hk, if_true]

/-- The key length is legal from 1 to `KEY_MAX_BYTES` (R223). -/
theorem keyLenLegal_eq_true_iff :
    keyLenLegal s = true ↔ 1 ≤ s.keyLen.toNat ∧ s.keyLen.toNat ≤ s.cfg.keyMaxBytes := by
  simp only [keyLenLegal, Bool.and_eq_true, decide_eq_true_eq]

theorem keyLenLegal_eq_false_iff :
    keyLenLegal s = false ↔ s.keyLen.toNat = 0 ∨ s.cfg.keyMaxBytes < s.keyLen.toNat := by
  rw [← Bool.not_eq_true, keyLenLegal_eq_true_iff]
  omega

theorem zeroCounter_of_eq (h : s.counter = 0#64) : zeroCounter s = some (.invalidCounter, 0#32) := by
  rw [zeroCounter, if_pos h, h]
  rfl

theorem zeroCounter_of_ne (h : s.counter ≠ 0#64) : zeroCounter s = none := if_neg h

/-- The beginning of a call for a code, whichever of HOTP and TOTP it is: all checks pass, or the first one that fails
in the order algorithm, key, counter is reported (R170, R171). -/
theorem codeCall_enters {o : Host.Outcome State Fault Refusal}
    (ho : o = .next (enterCall op alg (zeroCounter s) snapOf s)) :
    (∀ a, resolve alg = some a → 1 ≤ s.keyLen.toNat → s.keyLen.toNat ≤ s.cfg.keyMaxBytes → s.counter ≠ 0#64 →
      o = .next (enterBusy (snapOf a) (beginCall op s))) ∧
    (resolve alg = none →
      o = .next (raise .invalidAlgorithm (BitVec.ofNat 32 alg) .entry (beginCall op s))) ∧
    ((resolve alg).isSome = true → (s.keyLen.toNat = 0 ∨ s.cfg.keyMaxBytes < s.keyLen.toNat) →
      o = .next (raise .invalidKey s.keyLen .entry (beginCall op s))) ∧
    ((resolve alg).isSome = true → 1 ≤ s.keyLen.toNat → s.keyLen.toNat ≤ s.cfg.keyMaxBytes → s.counter = 0#64 →
      o = .next (raise .invalidCounter 0#32 .entry (beginCall op s))) := by
  subst ho
  refine ⟨fun a ha hmin hmax hc => ?_, fun ha => ?_, fun ha hk => ?_, fun ha hmin hmax hc => ?_⟩
  · rw [zeroCounter_of_ne hc, enterCall_started ha (keyLenLegal_eq_true_iff.2 ⟨hmin, hmax⟩)]
  · rw [enterCall_invalidAlgorithm ha]
  · rw [enterCall_invalidKey ha (keyLenLegal_eq_false_iff.2 hk)]
  · rw [zeroCounter_of_eq hc, enterCall_bad ha (keyLenLegal_eq_true_iff.2 ⟨hmin, hmax⟩)]

end

/-! ### The end of a call for a code -/

/-- `CODE_ASCII` of a six-character string, character `k` in bits `8k+7 : 8k` (R20). -/
theorem packString_of_length_six {str : List Byte} (h : str.length = 6) :
    packString str = BitVec.ofNat 64 ((str.getD 0 0).toNat + (str.getD 1 0).toNat * 2 ^ 8
      + (str.getD 2 0).toNat * 2 ^ 16 + (str.getD 3 0).toNat * 2 ^ 24 + (str.getD 4 0).toNat * 2 ^ 32
      + (str.getD 5 0).toNat * 2 ^ 40) := by
  match str, h with
  | [_, _, _, _, _, _], _ =>
    simp only [packString, le, List.getD_cons_zero, List.getD_cons_succ]
    congr 1
    omega

/-- `Complete` of a BUSY block whose snapshot asks for a code ends in DONE with that code, and the key is wiped (R170,
R171 "at Complete"). -/
theorem complete_publishesCode {s : State} {sn : Snap} {a : Alg} {key : List Byte} {counter : Word64}
    (hb : s.status.phase = .busy) (hs : s.snap = some sn)
    (hsn : completeCall sn s = completeCode (hotpCode a key counter) s) :
    ∃ code, hotpCode a key counter = some (code, format6 code) ∧ code ≤ 999999 ∧
      complete s = .next (publishCode code (format6 code) s) := by
  obtain ⟨code, hcode, hlt⟩ := hotpCode_eq a key counter
  refine ⟨code, hcode, Nat.le_of_lt_succ hlt, ?_⟩
  simp only [complete, if_pos hb, hs, hsn, hcode, completeCode]

/-- What the end of a call for a code writes, `CODE_ASCII` character by character, and that it writes nothing else
(R170, R171). -/
theorem publishCode_format6 (s : State) (code : Nat) :
    publishCode code (format6 code) s = { s with
      status := { s.status with phase := .done }
      key := [], keyLen := 0#32, snap := none
      codeVal := BitVec.ofNat 32 code
      codeAscii := BitVec.ofNat 64 (((format6 code).getD 0 0).toNat + ((format6 code).getD 1 0).toNat * 2 ^ 8
        + ((format6 code).getD 2 0).toNat * 2 ^ 16 + ((format6 code).getD 3 0).toNat * 2 ^ 24
        + ((format6 code).getD 4 0).toNat * 2 ^ 32 + ((format6 code).getD 5 0).toNat * 2 ^ 40) } := by
  rw [publishCode, packString_of_length_six (format6_length code)]
  rfl

/-- Settles O33: HOTP is a call for a code with `OP` 1; the states its beginning can answer are `codeCall_enters`'s,
unfolded. -/
theorem hotpFollowsItsRule : Obligations.HotpFollowsItsRule := by
  refine ⟨fun s alg hn => codeCall_enters (whenAccepted_of_not_busy s hn), fun s a key counter hb hs => ?_⟩
  simp only [← publishCode_format6]
  exact complete_publishesCode hb hs rfl

/-- Settles O34: TOTP is a call for a code with `OP` 2; the rest is as for HOTP. -/
theorem totpFollowsItsRule : Obligations.TotpFollowsItsRule := by
  refine ⟨fun s alg hn => codeCall_enters (whenAccepted_of_not_busy s hn), fun s a key counter hb hs => ?_⟩
  simp only [← publishCode_format6]
  exact complete_publishesCode hb hs rfl

end Sys2Proof.Machine

/-! PROOF. WindowVerifier (spec/45_window_verifier.md): the comparison (R185), the window loop (R183, R184) and the
command VERIFY (R180). -/

namespace Sys2Proof.Machine

/-! ### The comparison (R185) -/

/-- A word of whole bytes is fixed by its bytes. -/
theorem bitVec_eq_iff_bytes {n : Nat} (x y : BitVec (8 * n)) :
    x = y ↔ ∀ k < n, x.extractLsb' (8 * k) 8 = y.extractLsb' (8 * k) 8 := by
  refine ⟨fun h _ _ => by rw [h], fun h => BitVec.eq_of_getLsbD_eq fun i hi => ?_⟩
  have hbit : (x.extractLsb' (8 * (i / 8)) 8).getLsbD (i % 8) = (y.extractLsb' (8 * (i / 8)) 8).getLsbD (i % 8) := by
    rw [h (i / 8) (by omega)]
  simpa [BitVec.getLsbD_extractLsb', Nat.mod_lt, Nat.div_add_mod] using hbit

/-- Byte `k` of the word that holds a six-character string is its character `k` (R18). -/
theorem extractLsb'_ofNat_le {str : List Byte} (h : str.length = 6) (k : Nat) :
    (BitVec.ofNat 48 (le str)).extractLsb' (8 * k) 8 = str.getD k 0 := by
  have hlt : le str < 2 ^ 48 := by simpa only [h] using le_lt str
  rw [BitVec.extractLsb', BitVec.toNat_ofNat, Nat.mod_eq_of_lt hlt, Nat.shiftRight_eq_div_pow, le_byte]

/-- The comparison is its definition in R185. -/
theorem codeEqual_iff {plen : Word32} {pcode : BitVec 48} {str : List Byte} :
    codeEqual plen pcode str = true ↔ plen = 6#32 ∧ ∀ k < 6, pcode.extractLsb' (8 * k) 8 = str.getD k 0 := by
  simp only [codeEqual, Bool.and_eq_true, beq_iff_eq, List.all_eq_true, List.mem_range]

/-- Settles O35: `codeEqual_iff`, and the six characters are the bytes of the one 48-bit word. -/
theorem stringEqualityIsOneWordComparison : Obligations.StringEqualityIsOneWordComparison := by
  intro plen pcode str hlen
  have hword : pcode = BitVec.ofNat 48 (le str) ↔ ∀ k < 6, pcode.extractLsb' (8 * k) 8 = str.getD k 0 := by
    simp only [bitVec_eq_iff_bytes (n := 6) pcode, extractLsb'_ofNat_le hlen]
  exact ⟨codeEqual_iff, codeEqual_iff.trans (and_congr_right' hword.symm)⟩

/-! ### The window loop (R183) -/

section
variable {a : Alg} {key : List Byte} {window : Word64} {plen : Word32} {pcode : BitVec 48}

/-- A candidate matches when it has a code and that code is the presented one (R183). -/
theorem matchesAt_iff {i : Nat} :
    matchesAt a key window plen pcode i = true ↔ ∃ code str,
      hotpCode a key (BitVec.ofNat 64 (window.toNat - i)) = some (code, str) ∧ codeEqual plen pcode str = true := by
  obtain ⟨code, hcode, -⟩ := hotpCode_eq a key (BitVec.ofNat 64 (window.toNat - i))
  simp only [matchesAt, totpCode, hcode, Option.some.injEq, Prod.mk.injEq]
  exact ⟨fun h => ⟨code, _, ⟨rfl, rfl⟩, h⟩, fun ⟨_, _, ⟨_, hstr⟩, h⟩ => hstr ▸ h⟩

/-- What a search of the candidates `i` to `stop - 1`, each that many windows back from `last`, ends in (R183): a match
at a candidate not below window 0, no match and no candidate below window 0, or no match before the first candidate
below window 0. -/
inductive Searched (fits : Nat → Prop) (last i stop : Nat) : Verdict → Prop
  | hit (j : Nat) (hij : i ≤ j) (hstop : j < stop) (hlast : j ≤ last) (hj : fits j) : Searched fits last i stop .hit
  | miss (hstop : stop ≤ last + 1) (hnone : ∀ j, i ≤ j → j < stop → ¬fits j) : Searched fits last i stop .miss
  | under (hstop : last + 1 < stop) (hnone : ∀ j, i ≤ j → j ≤ last → ¬fits j) :
      Searched fits last i stop (.under (last + 1))

/-- A candidate that does not match is passed over: the search from the next one has the verdict. -/
theorem Searched.of_succ {fits : Nat → Prop} {last i stop : Nat} {v : Verdict} (hi : ¬fits i)
    (h : Searched fits last (i + 1) stop v) : Searched fits last i stop v := by
  have hpass {j : Nat} (hij : i ≤ j) (hj : fits j) : i + 1 ≤ j :=
    Nat.lt_of_le_of_ne hij fun heq => hi (heq ▸ hj)
  cases h with
  | hit j hij hstop hlast hj => exact .hit j (Nat.le_of_succ_le hij) hstop hlast hj
  | miss hstop hnone => exact .miss hstop fun j hij hjs hj => hnone j (hpass hij hj) hjs hj
  | under hstop hnone => exact .under hstop fun j hij hjl hj => hnone j (hpass hij hj) hjl hj

/-- The three ways a search from the current window on can end exclude each other, so each verdict is given exactly
under its condition. -/
theorem Searched.verdict_iff {fits : Nat → Prop} {last tol : Nat} {v : Verdict}
    (h : Searched fits last 0 (tol + 1) v) :
    (v = .hit ↔ ∃ j, j ≤ tol ∧ j ≤ last ∧ fits j) ∧
    (v = .miss ↔ tol ≤ last ∧ ∀ j ≤ tol, ¬fits j) ∧
    (∀ n, v = .under n ↔ last < tol ∧ n = last + 1 ∧ ∀ j ≤ last, ¬fits j) := by
  cases h with
  | hit j _ hstop hlast hj =>
    refine ⟨iff_of_true rfl ⟨j, Nat.le_of_lt_succ hstop, hlast, hj⟩, iff_of_false nofun ?_,
      fun _ => iff_of_false nofun ?_⟩
    · exact fun ⟨_, hnone⟩ => hnone j (Nat.le_of_lt_succ hstop) hj
    · exact fun ⟨_, _, hnone⟩ => hnone j hlast hj
  | miss hstop hnone =>
    have hnone (j : Nat) (htol : j ≤ tol) : ¬fits j := hnone j (Nat.zero_le j) (Nat.lt_succ_of_le htol)
    refine ⟨iff_of_false nofun ?_, iff_of_true rfl ⟨Nat.le_of_succ_le_succ hstop, hnone⟩,
      fun _ => iff_of_false nofun ?_⟩
    · exact fun ⟨j, htol, _, hj⟩ => hnone j htol hj
    · exact fun ⟨hlt, _⟩ => by omega
  | under hstop hnone =>
    have hnone (j : Nat) : j ≤ last → ¬fits j := hnone j (Nat.zero_le j)
    have hlt : last < tol := Nat.lt_of_succ_lt_succ hstop
    refine ⟨iff_of_false nofun ?_, iff_of_false nofun ?_, fun n => ⟨?_, ?_⟩⟩
    · exact fun ⟨j, _, hlast, hj⟩ => hnone j hlast hj
    · exact fun ⟨hle, _⟩ => Nat.not_lt.2 hle hlt
    · rintro ⟨⟩
      exact ⟨hlt, rfl, hnone⟩
    · rintro ⟨-, rfl, -⟩
      rfl

/-- The loop of R183 searches its candidates in their order, from one that is at most the first below window 0. -/
theorem verifyFrom_searched (left i : Nat) (hi : i ≤ window.toNat + 1) :
    Searched (matchesAt a key window plen pcode · = true) window.toNat i (i + left)
      (verifyFrom a key window plen pcode left i) := by
  induction left generalizing i with
  | zero => exact .miss hi fun j hij hji => absurd hji (by omega)
  | succ left ih =>
    rw [verifyFrom_succ]
    split
    case isTrue hle =>
      split
      case isTrue hfit => exact .hit i le_rfl (by omega) hle hfit
      case isFalse hfit =>
        have hnext := ih (i + 1) (by omega)
        rw [Nat.succ_add_eq_add_succ] at hnext
        exact hnext.of_succ hfit
    case isFalse hgt =>
      obtain rfl : i = window.toNat + 1 := by omega
      exact .under (by omega) fun j hij hj => absurd hj (by omega)

/-- The whole loop searches the candidates 0 to `tol` windows back (R183). -/
theorem verifyLoop_searched (tol : Word32) :
    Searched (matchesAt a key window plen pcode · = true) window.toNat 0 (tol.toNat + 1)
      (verifyLoop a key window tol plen pcode) := by
  rw [verifyLoop]
  simpa only [Nat.zero_add] using verifyFrom_searched (tol.toNat + 1) 0 (Nat.zero_le _)

end

/-- Settles O36: the loop is a search of the candidates from the current window back, and a search gives each verdict
exactly under its condition. -/
theorem verifyLoopSearchesBackwardWindows : Obligations.VerifyLoopSearchesBackwardWindows := by
  intro a key window tol plen pcode
  simp only [← matchesAt_iff]
  exact (verifyLoop_searched tol).verdict_iff

/-! ### The command (R180) -/

section
variable {s : State}

theorem emptyCode_of_eq (h : s.pcodeLen = 0#32) : emptyCode s = some (.invalidCode, 0#32) := by
  rw [emptyCode, if_pos h, h]

theorem emptyCode_of_ne (h : s.pcodeLen ≠ 0#32) : emptyCode s = none := if_neg h

/-- The snapshot of a VERIFY call (R23, R180). -/
def verifySnap (tolv : Bool) (s : State) (a : Alg) : Snap :=
  .verify a (secret s) (currentWindow s) (effectiveTolerance tolv s) s.pcodeLen (presentedCode s)

/-- VERIFY at the `CMD` write, the block not BUSY: the entry checks with `emptyCode` as the third (R180). -/
theorem exec_verify_of_not_busy (hn : s.status.phase ≠ .busy) (alg : Nat) (tolv : Bool) :
    exec (.verify alg tolv) s = .next (enterCall 3#4 alg (emptyCode s) (verifySnap tolv s) s) :=
  whenAccepted_of_not_busy s hn

/-- `Complete` of a BUSY block whose snapshot asks for a verification ends the call by its verdict (R180 "at
Complete"). -/
theorem complete_publishesVerdict {a : Alg} {key : List Byte} {window : Word64} {tol plen : Word32}
    {pcode : BitVec 48} (hb : s.status.phase = .busy) (hs : s.snap = some (.verify a key window tol plen pcode)) :
    (verifyLoop a key window tol plen pcode = .hit ∧ complete s = .next (publishMatch true s)) ∨
    (verifyLoop a key window tol plen pcode = .miss ∧ complete s = .next (publishMatch false s)) ∨
    (∃ i, verifyLoop a key window tol plen pcode = .under i ∧
      complete s = .next (raise .invalidCounter (BitVec.ofNat 32 i) .verifyLoop s)) := by
  obtain ⟨hn, -⟩ | ⟨-, hnone, -⟩ | ⟨sn, t, -, hsn, hc, hf⟩ := complete_cases s
  · exact absurd hb hn
  · cases hs.symm.trans hnone
  · cases hs.symm.trans hsn
    cases hf with
    | hit h => exact .inl ⟨h, hc⟩
    | miss h => exact .inr (.inl ⟨h, hc⟩)
    | under i h => exact .inr (.inr ⟨i, h, hc⟩)

end

/-- Settles O37: at the `CMD` write one equation of `enterCall` for each outcome of the entry checks, at `Complete` the
three ends by verdict; the states they answer are written out field by field. -/
theorem verifyFollowsItsRule : Obligations.VerifyFollowsItsRule := by
  refine ⟨fun s alg tolv hn => ?_, fun s a key window tol plen pcode hb hs => complete_publishesVerdict hb hs⟩
  rw [exec_verify_of_not_busy hn]
  refine ⟨fun a ha hmin hmax hp => ?_, fun ha => ?_, fun ha hk => ?_, fun ha hmin hmax hp => ?_⟩
  · rw [emptyCode_of_ne hp, enterCall_started ha (keyLenLegal_eq_true_iff.2 ⟨hmin, hmax⟩)]
    rfl
  · rw [enterCall_invalidAlgorithm ha]
    rfl
  · rw [enterCall_invalidKey ha (keyLenLegal_eq_false_iff.2 hk)]
    rfl
  · rw [emptyCode_of_eq hp, enterCall_bad ha (keyLenLegal_eq_true_iff.2 ⟨hmin, hmax⟩)]
    rfl

end Sys2Proof.Machine

/-! PROOF. Control (spec/46_control.md): CLEAR in every phase (R211), the reads of the register map (R200), and the
writes while BUSY with the sticky `DROPPED` (R205). -/

namespace Sys2Proof.Machine

/-! ### CLEAR (R211) -/

/-- CLEAR clears in every phase, whatever its ignored bits. -/
theorem exec_clear (ign : Nat) (s : State) : exec (.clear ign) s = .next (clear s) := rfl

/-- Settles O39: CLEAR answers `clear s`, which writes the registers as listed. -/
theorem clearCompletesInEveryPhase : Obligations.ClearCompletesInEveryPhase :=
  fun s ign => ⟨exec_clear ign s, Status.reset_word⟩

/-! ### The reads (R200) -/

theorem lowHalf_eq_extractLsb' (v : Word64) : lowHalf v = v.extractLsb' 0 32 := rfl

theorem highHalf_eq_extractLsb' (v : Word64) : highHalf v = v.extractLsb' 32 32 := by
  rw [highHalf, BitVec.extractLsb', Nat.shiftRight_eq_div_pow]

/-- A read answers with data or a bus error and does nothing else (R42, R200). -/
theorem hostRead_eq_answer (off size : Nat) (s : State) : ∃ r, hostRead off size s = answer r s := by
  cases hp : portOf s.cfg off size with
  | none => exact ⟨.busError, by simp only [hostRead, hp]⟩
  | some p => exact ⟨.data (regRead p s), hostRead_port hp⟩

section
variable {s : State} {off : Nat}

/-- An aligned read inside the window answers the value of its register. -/
theorem hostRead_reply {v : Word32} (h4 : off % 4 = 0) (h : off < 0x100 + s.cfg.keyMaxBytes)
    (hv : regRead (portAt off) s = v) : (hostRead off 4 s).reply = .data v := by
  rw [hostRead_port (portOf_aligned h4 h), hv, answer_reply]

/-- Below the key buffer that needs nothing of the capacity, so for a literal offset `decide` shows the word is
reached. -/
theorem hostRead_reply_below_key {v : Word32} (hv : regRead (portAt off) s = v)
    (h : off % 4 = 0 ∧ off < 0x100 := by decide) : (hostRead off 4 s).reply = .data v :=
  hostRead_reply h.1 (by omega) hv

theorem hostRead_reply_lowHalf {v : Word64} (hv : regRead (portAt off) s = lowHalf v)
    (h : off % 4 = 0 ∧ off < 0x100 := by decide) : (hostRead off 4 s).reply = .data (v.extractLsb' 0 32) :=
  hostRead_reply_below_key (hv.trans (lowHalf_eq_extractLsb' v)) h

theorem hostRead_reply_highHalf {v : Word64} (hv : regRead (portAt off) s = highHalf v)
    (h : off % 4 = 0 ∧ off < 0x100 := by decide) : (hostRead off 4 s).reply = .data (v.extractLsb' 32 32) :=
  hostRead_reply_below_key (hv.trans (highHalf_eq_extractLsb' v)) h

/-- A reserved word reads as 0 (R44). -/
theorem regRead_reserved (hlo : 0x3C ≤ off) (hhi : off < 0x100) : regRead (portAt off) s = 0#32 := by
  rw [portAt_reserved hlo hhi, regRead]

/-- A key word reads as 0 (R22). -/
theorem regRead_key (hlo : 0x100 ≤ off) : regRead (portAt off) s = 0#32 := by
  rw [show portAt off = .key ((off - 0x100) / 4) from if_pos hlo, regRead]

end

/-- `STATUS[1:0]` is the number of the phase (R11, R12). -/
theorem Status.field_word_phase (st : Status) : field st.word 1 0 = st.phase.code := by
  have hlt : st.phase.code < 4 := by cases st.phase <;> decide
  rw [field, Status.word, BitVec.toNat_ofNat]
  omega

theorem Status.field_word_busy {st : Status} (hb : st.phase = .busy) : field st.word 1 0 = 1 := by
  rw [Status.field_word_phase, hb, Phase.code]

/-- The result registers are 0 while BUSY (R19, R20). -/
theorem State.Inv.results_zero_of_busy {s : State} (h : s.Inv) (hb : s.status.phase = .busy) :
    s.codeVal = 0#32 ∧ s.codeAscii = 0#64 := by
  simpa only [State.ResultOk, hb, reduceCtorEq, false_and, if_false] using h.resultOk

/-- Settles O5: each offset by its row of the map, the state after a read by `answer`, and the reads while BUSY by the
invariant. -/
theorem readsReturnTheRegisterMap : Obligations.ReadsReturnTheRegisterMap := by
  intro s
  exact ⟨hostRead_reply_below_key rfl, hostRead_reply_below_key rfl, hostRead_reply_below_key rfl,
    hostRead_reply_below_key rfl, hostRead_reply_lowHalf rfl, hostRead_reply_highHalf rfl, hostRead_reply_lowHalf rfl,
    hostRead_reply_highHalf rfl, hostRead_reply_below_key rfl, hostRead_reply_below_key rfl, hostRead_reply_lowHalf rfl,
    hostRead_reply_highHalf rfl, hostRead_reply_below_key rfl, hostRead_reply_lowHalf rfl, hostRead_reply_highHalf rfl,
    fun off h4 hlo hhi => hostRead_reply_below_key (regRead_reserved hlo hhi) ⟨h4, hhi⟩,
    fun off h4 hlo hhi => hostRead_reply h4 hhi (regRead_key hlo), fun off size => hostRead_eq_answer off size s,
    fun hinv hb => ⟨Status.field_word_busy hb, hinv.results_zero_of_busy hb⟩⟩

/-! ### The writes while BUSY (R205) -/

/-- CLEAR is the command of `OP` 0xF and of no other (R62, R65). -/
theorem decode_of_op_clear {w : Word32} (h : field w 3 0 = 0xF) : decode w = .ok (.clear (field w 31 4)) := by
  simp only [decode, if_pos h]

theorem op_of_decode_clear {w : Word32} {ign : Nat} (h : decode w = .ok (.clear ign)) : field w 3 0 = 0xF := by
  by_contra hop
  simp only [decode, if_neg hop] at h
  split_ifs at h <;> simp at h

section
variable {s : State} {w : Word32} {rest : List BusEvent}

/-- A write of `CMD` whose word decodes runs the command (R51, R207). -/
theorem step_command {i : Instr} (h : s.bus = .write 0x00 4 w :: rest) (hd : decode w = .ok i) :
    step s = exec i (answer .written (popEvent rest s)) := by
  simp only [step, fetch_command h, hd]

/-- A write of `CMD` whose word is ILLEGAL (R66, R207). -/
theorem step_illegal {e : Illegal} (h : s.bus = .write 0x00 4 w :: rest) (hd : decode w = .error e) :
    step s = illegalCommand w (answer .written (popEvent rest s)) := by
  simp only [step, fetch_command h, hd]

/-- A command other than CLEAR is dropped while BUSY (R205). -/
theorem exec_of_busy {i : Instr} (hb : s.status.phase = .busy) (hi : ∀ ign, i ≠ .clear ign) :
    exec i s = .next (dropWrite s) := by
  obtain ⟨ign, hc, -⟩ | ⟨-, -, hx⟩ | ⟨-, hn, -⟩ := exec_cases i s
  · exact absurd hc (hi ign)
  · exact hx
  · exact absurd hb hn

/-- A write of `CMD` whose word is not CLEAR's is dropped while BUSY, ILLEGAL words included (R205); `step_drop` is the
write of every other word. -/
theorem step_drop_cmd (hb : s.status.phase = .busy) (h : s.bus = .write 0x00 4 w :: rest) (hop : field w 3 0 ≠ 0xF) :
    step s = .next (dropWrite (answer .written (popEvent rest s))) := by
  cases hd : decode w with
  | ok i =>
    rw [step_command h hd]
    refine exec_of_busy hb fun ign hi => hop (op_of_decode_clear (ign := ign) ?_)
    rw [hd, hi]
  | error e =>
    rw [step_illegal h hd]
    exact whenAccepted_of_busy _ hb

/-- A CLEAR word clears in every phase (R205, R211). -/
theorem step_clear (h : s.bus = .write 0x00 4 w :: rest) (hop : field w 3 0 = 0xF) :
    step s = .next (clear (answer .written (popEvent rest s))) := by
  rw [step_command h (decode_of_op_clear hop), exec_clear]

end

/-! ### `DROPPED` (R205) -/

section
variable {s t : State}

/-- Beginning a call leaves `DROPPED` as it is (R207), and so does a failed entry check (R230). -/
theorem Entered.dropped (h : Entered s t) : t.status.dropped = s.status.dropped := by
  cases h with
  | failed => rfl
  | started => rfl

/-- No end of a call changes `DROPPED` (R170, R180, R230). -/
theorem Finished.dropped {sn : Snap} (h : Finished s sn t) : t.status.dropped = s.status.dropped := by
  cases h with
  | hotp => rfl
  | totp => rfl
  | hit => rfl
  | miss => rfl
  | under => rfl

theorem complete_dropped (h : complete s = .next t) : t.status.dropped = s.status.dropped := by
  obtain ⟨-, hx⟩ | ⟨-, -, hx⟩ | ⟨sn, u, -, -, hx, hu⟩ := complete_cases s <;> cases hx.symm.trans h
  · rfl
  · exact hu.dropped

/-- An operand write does not touch `STATUS` (R201). -/
@[simp] theorem storePort_status (p : Port) (v : Word32) (s : State) : (storePort p v s).status = s.status := by
  cases p <;> rfl

/-- What a command or a write may do to `DROPPED`: keep it, or set it because the block is BUSY. -/
def State.DropsOnlyWhenBusy (s t : State) : Prop :=
  t.status.dropped = s.status.dropped ∨ (s.status.phase = .busy ∧ t.status.dropped = true)

theorem exec_dropped {i : Instr} (hi : ∀ ign, i ≠ .clear ign) (h : exec i s = .next t) : s.DropsOnlyWhenBusy t := by
  obtain ⟨ign, hc, -⟩ | ⟨-, hb, hx⟩ | ⟨-, -, u, hx, hu⟩ := exec_cases i s
  · exact absurd hc (hi ign)
  · cases hx.symm.trans h
    exact .inr ⟨hb, rfl⟩
  · cases hx.symm.trans h
    exact .inl hu.dropped

theorem illegalCommand_dropped {w : Word32} (h : illegalCommand w s = .next t) : s.DropsOnlyWhenBusy t := by
  obtain ⟨hb, hx⟩ | ⟨-, hx⟩ := illegalCommand_cases w s <;> cases hx.symm.trans h
  · exact .inr ⟨hb, rfl⟩
  · exact .inl rfl

theorem regWrite_dropped {p : Port} {v : Word32} (h : regWrite p v s = .next t) : s.DropsOnlyWhenBusy t := by
  obtain ⟨hb, hx⟩ | ⟨-, hx⟩ := regWrite_cases p v s <;> cases hx.symm.trans h
  · exact .inr ⟨hb, rfl⟩
  · exact .inl (by rw [storePort_status])

/-- Everything a step can do to `DROPPED`, by the next event: nothing, the set of R205, or the clear of R211 or
R260. -/
inductive DroppedStep (s t : State) : Prop
  | kept (h : t.status.dropped = s.status.dropped)
  | recorded (hb : s.status.phase = .busy) (ht : t.status.dropped = true)
      (hw : ∃ off size v rest, s.bus = .write off size v :: rest)
  | reset (ht : t.status.dropped = false) (hr : ∃ rest, s.bus = .reset :: rest)
  | cleared (ht : t.status.dropped = false)
      (hc : ∃ w rest ign, s.bus = .write 0x00 4 w :: rest ∧ decode w = .ok (.clear ign))

/-- A host write that is not a CLEAR word, from what the write itself does. -/
theorem DroppedStep.of_write {off size : Nat} {v : Word32} {rest : List BusEvent}
    (hbus : s.bus = .write off size v :: rest)
    (h : (answer .written (popEvent rest s)).DropsOnlyWhenBusy t) : DroppedStep s t :=
  h.elim (fun hk => .kept hk) fun ⟨hb, ht⟩ => .recorded hb ht ⟨off, size, v, rest, hbus⟩

theorem Stepped.droppedStep {o : Host.Outcome State Fault Refusal} (h : Stepped s o) (ho : o = .next t) :
    DroppedStep s t := by
  cases h with
  | idle hbus => exact .kept (complete_dropped ho)
  | complete rest hbus =>
    have hk := complete_dropped ho
    exact .kept hk
  | reset rest hbus =>
    cases ho
    exact .reset rfl ⟨rest, hbus⟩
  | read off size rest hbus =>
    obtain ⟨r, hr⟩ := hostRead_eq_answer off size (popEvent rest s)
    cases hr ▸ ho
    exact .kept rfl
  | refusedWrite off size v rest hbus hp =>
    cases ho
    exact .kept rfl
  | command off size v i rest hbus hp hd =>
    by_cases hi : ∃ ign, i = .clear ign
    · obtain ⟨ign, rfl⟩ := hi
      obtain ⟨rfl, rfl⟩ := portOf_eq_cmd hp
      cases ho
      exact .cleared rfl ⟨v, rest, ign, hbus, hd⟩
    · exact .of_write hbus (exec_dropped (not_exists.1 hi) ho)
  | illegal off size v e rest hbus hp hd => exact .of_write hbus (illegalCommand_dropped ho)
  | write off size v p rest hbus hp hc => exact .of_write hbus (regWrite_dropped ho)

end

/-- Settles O12: a write while BUSY by the word it reaches, `CMD` or another; the sticky flag by what each kind of step
does to it. -/
theorem busyDropsEveryWriteButClear : Obligations.BusyDropsEveryWriteButClear := by
  refine ⟨fun s off v rest hb h4 hoff hbus => ⟨fun ⟨hcmd, hop⟩ => ?clear, fun hnot => ?drop⟩,
    fun s t h => ?sticky⟩
  case clear =>
    subst hcmd
    exact step_clear hbus hop
  case drop =>
    by_cases hcmd : off = 0x00
    · subst hcmd
      exact step_drop_cmd hb hbus fun hop => hnot ⟨rfl, hop⟩
    · exact step_drop hb hbus (portOf_aligned h4 hoff) fun hp => hcmd (portAt_eq_cmd hp)
  case sticky =>
    cases (step_cases s).droppedStep h with
    | kept hk => exact ⟨fun hs => .inl (hk.trans hs), fun hs ht => absurd (hs.symm.trans (hk.symm.trans ht)) nofun⟩
    | recorded hb ht hw => exact ⟨fun _ => .inl ht, fun _ _ => ⟨hb, hw⟩⟩
    | reset ht hr => exact ⟨fun _ => .inr (.inl hr), fun _ ht' => absurd (ht.symm.trans ht') nofun⟩
    | cleared ht hc => exact ⟨fun _ => .inr (.inr hc), fun _ ht' => absurd (ht.symm.trans ht') nofun⟩

end Sys2Proof.Machine

/-! PROOF. Errors (spec/60_exceptions.md): error entry (R230) and InvalidCommand (R221). -/

namespace Sys2Proof.Machine

/-! ### Error entry (R230) -/

/-- Settles O40: error entry is `wipe()`, the change of `STATUS` by `Status.raise`, and writes of `ERR_INFO` and the
result registers. -/
theorem errorEntryRecordsAndWipes : Obligations.ErrorEntryRecordsAndWipes :=
  fun _ _ _ _ => rfl

/-! ### InvalidCommand (R221) -/

/-- The `OP` recorded for an ILLEGAL word is the word's low nibble (R61, R207). -/
theorem ofNat_op_field (w : Word32) : BitVec.ofNat 4 (field w 3 0) = BitVec.ofNat 4 w.toNat := by
  have hop : field w 3 0 = w.toNat % 2 ^ 4 := by simp [field]
  apply BitVec.eq_of_toNat_eq
  rw [hop, BitVec.toNat_ofNat, BitVec.toNat_ofNat, Nat.mod_mod]

/-- An ILLEGAL word while not BUSY begins a call and raises InvalidCommand in it (R207, R221). -/
theorem illegalCommand_of_not_busy (w : Word32) {s : State} (hn : s.status.phase ≠ .busy) :
    illegalCommand w s = .next (raise .invalidCommand w .entry (beginCall (BitVec.ofNat 4 w.toNat) s)) :=
  whenAccepted_of_not_busy s hn

/-- Settles O19: the step answers the write and raises InvalidCommand in the begun call; error entry writes the registers
as listed, and `OP` is the one the call began with. -/
theorem illegalWordRaisesInvalidCommand : Obligations.IllegalWordRaisesInvalidCommand := by
  intro s w e rest hn hbus hd
  have hpop : (answer .written (popEvent rest s)).status.phase ≠ .busy := hn
  rw [step_illegal hbus hd, illegalCommand_of_not_busy w hpop, errorEntryRecordsAndWipes, ofNat_op_field]
  rfl

end Sys2Proof.Machine

/-! PROOF. The encoding (spec/30_encoding.md): what a word decodes to (R61 to R66), decoding against encoding, and the
match/mask pairs of the opcode table (R65). -/

namespace Sys2Proof

/-- Everything `decode` can answer for a word, with the tests of R65 that led there. -/
inductive Decoded (w : Word32) : Except Illegal Instr → Prop
  | clear (hop : field w 3 0 = 0xF) : Decoded w (.ok (.clear (field w 31 4)))
  | hotp (hop : field w 3 0 = 0x1) (hz : field w 31 8 = 0) : Decoded w (.ok (.hotp (field w 7 4)))
  | totp (hop : field w 3 0 = 0x2) (hz : field w 31 8 = 0) : Decoded w (.ok (.totp (field w 7 4)))
  | verify (hop : field w 3 0 = 0x3) (hz : field w 31 9 = 0) :
      Decoded w (.ok (.verify (field w 7 4) (field w 8 8 == 1)))
  | illegal (e : Illegal) (hclear : field w 3 0 ≠ 0xF) (hhotp : ¬(field w 3 0 = 0x1 ∧ field w 31 8 = 0))
      (htotp : ¬(field w 3 0 = 0x2 ∧ field w 31 8 = 0)) (hverify : ¬(field w 3 0 = 0x3 ∧ field w 31 9 = 0)) :
      Decoded w (.error e)

theorem decode_decoded (w : Word32) : Decoded w (decode w) := by
  by_cases hclear : field w 3 0 = 0xF
  · simpa [decode, hclear] using .clear hclear
  by_cases hhotp : field w 3 0 = 0x1
  · by_cases hz : field w 31 8 = 0
    · simpa [decode, hhotp, hz] using .hotp hhotp hz
    · simpa [decode, hhotp, hz] using .illegal _ (by omega) (by omega) (by omega) (by omega)
  by_cases htotp : field w 3 0 = 0x2
  · by_cases hz : field w 31 8 = 0
    · simpa [decode, htotp, hz] using .totp htotp hz
    · simpa [decode, htotp, hz] using .illegal _ (by omega) (by omega) (by omega) (by omega)
  by_cases hverify : field w 3 0 = 0x3
  · by_cases hz : field w 31 9 = 0
    · simpa [decode, hverify, hz] using .verify hverify hz
    · simpa [decode, hverify, hz] using .illegal _ (by omega) (by omega) (by omega) (by omega)
  simpa [decode, hclear, hhotp, htotp, hverify] using .illegal _ hclear (by omega) (by omega) (by omega)

section
variable {w : Word32}

/-! The rows of the table with a command of their own, beside `Machine.decode_of_op_clear`. -/

theorem decode_of_op_hotp (hop : field w 3 0 = 0x1) (hz : field w 31 8 = 0) :
    decode w = .ok (.hotp (field w 7 4)) := by
  simp [decode, hop, hz]

theorem decode_of_op_totp (hop : field w 3 0 = 0x2) (hz : field w 31 8 = 0) :
    decode w = .ok (.totp (field w 7 4)) := by
  simp [decode, hop, hz]

theorem decode_of_op_verify (hop : field w 3 0 = 0x3) (hz : field w 31 9 = 0) :
    decode w = .ok (.verify (field w 7 4) (field w 8 8 == 1)) := by
  simp [decode, hop, hz]

end

/-- Settles O15: the fields of each command's word are where `decode` looks for them. -/
theorem decodeOfEncodeIsTheCommand : Obligations.DecodeOfEncodeIsTheCommand := by
  intro i hi
  cases i with
  | hotp alg =>
    obtain ⟨hop, halg, hz⟩ := Laws.EncodedFields.hotp alg hi
    rw [decode_of_op_hotp hop hz, halg]
  | totp alg =>
    obtain ⟨hop, halg, hz⟩ := Laws.EncodedFields.totp alg hi
    rw [decode_of_op_totp hop hz, halg]
  | verify alg tolv =>
    obtain ⟨hop, halg, htolv, hz⟩ := Laws.EncodedFields.verify alg tolv hi
    rw [decode_of_op_verify hop hz, halg, htolv]
    cases tolv <;> rfl
  | clear ign =>
    obtain ⟨hop, hign⟩ := Laws.EncodedFields.clear ign hi
    rw [Machine.decode_of_op_clear hop, hign]

/-- A field fits its bits. -/
theorem field_lt (w : Word32) (hi lo : Nat) : field w hi lo < 2 ^ (hi - lo + 1) := Nat.mod_lt _ (by positivity)

/-- Settles O16: each field of a decoded command fits its bits by `field_lt`, and the word is the sum of its fields,
those that must be 0 included. -/
theorem encodeOfDecodeIsTheWord : Obligations.EncodeOfDecodeIsTheWord := by
  intro w i h
  have hw := w.isLt
  have halg : field w 7 4 < 2 ^ 4 := field_lt w 7 4
  have hd := decode_decoded w
  rw [h] at hd
  cases hd with
  | clear hop =>
    refine ⟨decide_eq_true (field_lt w 31 4), BitVec.eq_of_toNat_eq ?_⟩
    simp only [field, encode, BitVec.toNat_ofNat] at hop ⊢
    omega
  | hotp hop hz =>
    refine ⟨decide_eq_true halg, BitVec.eq_of_toNat_eq ?_⟩
    simp only [field, encode, BitVec.toNat_ofNat] at hop hz ⊢
    omega
  | totp hop hz =>
    refine ⟨decide_eq_true halg, BitVec.eq_of_toNat_eq ?_⟩
    simp only [field, encode, BitVec.toNat_ofNat] at hop hz ⊢
    omega
  | verify hop hz =>
    refine ⟨decide_eq_true halg, BitVec.eq_of_toNat_eq ?_⟩
    have htolv : (field w 8 8 == 1).toNat = field w 8 8 := by
      have hbit : field w 8 8 < 2 := field_lt w 8 8
      interval_cases field w 8 8 <;> rfl
    simp only [encode, htolv, BitVec.toNat_ofNat]
    simp only [field] at hop hz ⊢
    omega

/-! ### The match/mask pairs (R65) -/

theorem clearRow_accepts_eq (w : Word32) : clearRow.accepts w = decide (field w 3 0 = 0xF) := by
  rw [Bool.eq_iff_iff, decide_eq_true_iff, clearRow_accepts]

theorem hotpRow_accepts_eq (w : Word32) :
    hotpRow.accepts w = decide (field w 3 0 = 0x1 ∧ field w 31 8 = 0) := by
  rw [Bool.eq_iff_iff, decide_eq_true_iff, hotpRow_accepts]

theorem totpRow_accepts_eq (w : Word32) :
    totpRow.accepts w = decide (field w 3 0 = 0x2 ∧ field w 31 8 = 0) := by
  rw [Bool.eq_iff_iff, decide_eq_true_iff, totpRow_accepts]

theorem verifyRow_accepts_eq (w : Word32) :
    verifyRow.accepts w = decide (field w 3 0 = 0x3 ∧ field w 31 9 = 0) := by
  rw [Bool.eq_iff_iff, decide_eq_true_iff, verifyRow_accepts]

/-- Settles O14: each pair tests `OP` and the reserved bits as `decode` does, so for each kind of word the rows that
accept it and its decoding are known. -/
theorem decodeFollowsTheMatchMaskPairs : Obligations.DecodeFollowsTheMatchMaskPairs := by
  intro w
  simp only [opcodeRows, List.forall_mem_cons, List.filter_cons, clearRow_accepts_eq, hotpRow_accepts_eq,
    totpRow_accepts_eq, verifyRow_accepts_eq]
  have hd := decode_decoded w
  generalize decode w = d at hd ⊢
  cases hd with
  | clear hop => simp [hop]
  | hotp hop hz => simp [hop, hz]
  | totp hop hz => simp [hop, hz]
  | verify hop hz => simp [hop, hz]
  | illegal e hclear hhotp htotp hverify => simp [hclear, hhotp, htotp, hverify]

/-- Settles O17: each word by evaluation. -/
theorem wordsOfTheSpecDecodeAsListed : Obligations.WordsOfTheSpecDecodeAsListed := by
  unfold Obligations.WordsOfTheSpecDecodeAsListed
  decide

end Sys2Proof

/-! PROOF. `STATUS` as a word (spec/10_state.md R12). -/

namespace Sys2Proof.Machine

/-- The fields of `STATUS` fit their bits and the bits above them are 0, so the word is their sum (R12). -/
theorem Status.word_toNat (st : Status) :
    st.word.toNat = st.phase.code + 2 ^ 2 * st.matched.toNat + 2 ^ 3 * st.dropped.toNat + 2 ^ 4 * st.err.code
      + 2 ^ 8 * st.op.toNat + 2 ^ 12 * st.site.code ∧
    st.phase.code < 4 ∧ st.matched.toNat < 2 ∧ st.dropped.toNat < 2 ∧ st.err.code < 16 ∧ st.op.toNat < 16 ∧
    st.site.code < 2 := by
  have hphase : st.phase.code < 4 := by cases st.phase <;> decide
  have herr : st.err.code < 16 := by cases st.err <;> decide
  have hsite : st.site.code < 2 := by cases st.site <;> decide
  have hop : st.op.toNat < 16 := st.op.isLt
  have hmatched := st.matched.toNat_lt
  have hdropped := st.dropped.toNat_lt
  refine ⟨?_, hphase, hmatched, hdropped, herr, hop, hsite⟩
  rw [Status.word, BitVec.toNat_ofNat]
  omega

/-- Settles O3: each field is cut out of the sum of `Status.word_toNat`. -/
theorem statusFieldsStandWhereTheRulePlacesThem : Obligations.StatusFieldsStandWhereTheRulePlacesThem := by
  intro st
  obtain ⟨hword, hphase, hmatched, hdropped, herr, hop, hsite⟩ := st.word_toNat
  have hbit (b : Bool) : (if b then 1 else 0) = b.toNat := by cases b <;> rfl
  rw [hbit, hbit]
  refine ⟨st.field_word_phase, ?matched, ?dropped, (?err : _ = st.err.code), ?op, (?site : _ = st.site.code), ?high⟩
  all_goals
    rw [field, hword]
    omega

end Sys2Proof.Machine

/-! PROOF. What the commands and `Complete` leave unchanged (spec/46_control.md R170 to R211). -/

namespace Sys2Proof.Machine

/-- Only registers a call may write differ: `t` has the configuration, the operand registers other than the key, the
schedule and the reply of `s`. -/
def State.OtherRegistersKept (s t : State) : Prop :=
  t.cfg = s.cfg ∧ t.counter = s.counter ∧ t.time = s.time ∧ t.tolerance = s.tolerance ∧ t.pcodeLen = s.pcodeLen ∧
    t.pcode = s.pcode ∧ t.bus = s.bus ∧ t.reply = s.reply

section
variable {s t : State}

theorem Entered.otherRegistersKept (h : Entered s t) : s.OtherRegistersKept t := by
  cases h with
  | failed => simp [State.OtherRegistersKept]
  | started => simp [State.OtherRegistersKept]

theorem Finished.otherRegistersKept {sn : Snap} (h : Finished s sn t) : s.OtherRegistersKept t := by
  cases h with
  | hotp => simp [State.OtherRegistersKept]
  | totp => simp [State.OtherRegistersKept]
  | hit => simp [State.OtherRegistersKept]
  | miss => simp [State.OtherRegistersKept]
  | under => simp [State.OtherRegistersKept]

theorem exec_otherRegistersKept {i : Instr} (h : exec i s = .next t) : s.OtherRegistersKept t := by
  obtain ⟨_, _, hx⟩ | ⟨_, _, hx⟩ | ⟨_, _, u, hx, hu⟩ := exec_cases i s <;> cases hx.symm.trans h
  · simp [State.OtherRegistersKept]
  · simp [State.OtherRegistersKept]
  · exact hu.otherRegistersKept

theorem complete_otherRegistersKept (h : complete s = .next t) : s.OtherRegistersKept t := by
  obtain ⟨-, hx⟩ | ⟨-, -, hx⟩ | ⟨sn, u, -, -, hx, hu⟩ := complete_cases s <;> cases hx.symm.trans h
  · simp [State.OtherRegistersKept]
  · exact hu.otherRegistersKept

/-- A call that begins leaves the key, or fails its entry checks and wipes it (R207, R230). -/
theorem Entered.key_kept_or_wiped (h : Entered s t) : (t.keyLen = s.keyLen ∧ t.key = s.key) ∨ t.Wiped := by
  cases h with
  | failed op e info _ _ => exact .inr (raise_beginCall_erasedFrom s op e info .entry).1
  | started => exact .inl ⟨rfl, rfl⟩

theorem exec_key_kept_or_wiped {i : Instr} (h : exec i s = .next t) :
    (t.keyLen = s.keyLen ∧ t.key = s.key) ∨ t.Wiped := by
  obtain ⟨_, _, hx⟩ | ⟨_, _, hx⟩ | ⟨_, _, u, hx, hu⟩ := exec_cases i s <;> cases hx.symm.trans h
  · exact .inr (clear_erasedFrom s).1
  · exact .inl ⟨rfl, rfl⟩
  · exact hu.key_kept_or_wiped

end

/-- Settles O41: the other registers by `exec_otherRegistersKept`, the key by `exec_key_kept_or_wiped`, `DROPPED` by
`exec_dropped` for every command but CLEAR. -/
theorem commandsLeaveTheOtherRegisters : Obligations.CommandsLeaveTheOtherRegisters := by
  intro i s t h
  obtain ⟨hcfg, hcounter, htime, htol, hplen, hpcode, hbus, hreply⟩ := exec_otherRegistersKept h
  refine ⟨hcfg, hcounter, htime, htol, hplen, hpcode, hbus, hreply, ?key, ?dropped⟩
  case key => exact (exec_key_kept_or_wiped h).imp_left fun ⟨hlen, hkey⟩ => ⟨hlen, fun k => by rw [hkey]⟩
  case dropped =>
    by_cases hi : ∃ ign, i = .clear ign
    · exact .inr (.inr hi)
    · exact (exec_dropped (not_exists.1 hi) h).imp_right .inl

/-- No end of a call changes `OP` (R170, R180, R230). -/
theorem Finished.op {s t : State} {sn : Snap} (h : Finished s sn t) : t.status.op = s.status.op := by
  cases h with
  | hotp => rfl
  | totp => rfl
  | hit => rfl
  | miss => rfl
  | under => rfl

theorem complete_op {s t : State} (h : complete s = .next t) : t.status.op = s.status.op := by
  obtain ⟨-, hx⟩ | ⟨-, -, hx⟩ | ⟨sn, u, -, -, hx, hu⟩ := complete_cases s <;> cases hx.symm.trans h
  · rfl
  · exact hu.op

/-- `Complete` is the step of a BUSY block only (R210). -/
theorem complete_of_not_busy {s : State} (hn : s.status.phase ≠ .busy) : complete s = .next s := if_neg hn

/-- Settles O42, by the ends of a call. -/
theorem completeLeavesTheOtherRegisters : Obligations.CompleteLeavesTheOtherRegisters := by
  intro s t h
  obtain ⟨hcfg, hcounter, htime, htol, hplen, hpcode, hbus, hreply⟩ := complete_otherRegistersKept h
  refine ⟨hcfg, hcounter, htime, htol, hplen, hpcode, hbus, hreply, complete_op h, complete_dropped h, fun hn => ?_⟩
  cases (complete_of_not_busy hn).symm.trans h
  rfl

end Sys2Proof.Machine

/-! PROOF. The invariant (spec/10_state.md R11 to R23, spec/46_control.md R209): the reset state meets it, every step
answers a next state and keeps it, and a finite schedule ends with no call left. -/

namespace Sys2Proof.Machine

/-! ### The clauses about `STATUS` alone -/

/-- The clauses of `State.Inv` that speak of `STATUS` alone (R12, R209, R220, R227). -/
structure Status.Consistent (st : Status) : Prop where
  errIffError : st.err = .noError ↔ st.phase ≠ .error
  neverTolerance : st.err ≠ .invalidTolerance
  siteOnlyVerify : st.site = .verifyLoop → st.err = .invalidCounter ∧ st.op = 3#4
  matchOnlyVerify : st.matched = true → st.phase = .done ∧ st.op = 3#4
  doneOp : st.phase = .done → st.op = 1#4 ∨ st.op = 2#4 ∨ st.op = 3#4
  idleStatus : st.phase = .idle → st = Status.reset

theorem State.Inv.status_consistent {s : State} (h : s.Inv) : s.status.Consistent :=
  ⟨h.errIffError, h.neverTolerance, h.siteOnlyVerify, h.matchOnlyVerify, h.doneOp, h.idleStatus⟩

theorem Status.reset_consistent : Status.reset.Consistent where
  errIffError := by simp
  neverTolerance := by simp
  siteOnlyVerify := by simp
  matchOnlyVerify := by simp
  doneOp := by simp
  idleStatus _ := rfl

section
variable {st : Status}

/-- An error entry fixes every field it does not keep (R230). -/
theorem Status.raise_consistent {e : ErrCode} {site : Site} (he : e ≠ .noError) (ht : e ≠ .invalidTolerance)
    (hsite : site = .verifyLoop → e = .invalidCounter ∧ st.op = 3#4) : (st.raise e site).Consistent where
  errIffError := by simpa using he
  neverTolerance := ht
  siteOnlyVerify := hsite
  matchOnlyVerify := by simp
  doneOp := by simp
  idleStatus := by simp

/-- So does the start of a call (R207). -/
theorem Status.begin_enterBusy_consistent (op : BitVec 4) : (st.begin op).enterBusy.Consistent where
  errIffError := by simp
  neverTolerance := by simp
  siteOnlyVerify := by simp
  matchOnlyVerify := by simp
  doneOp := by simp
  idleStatus := by simp

/-- While BUSY there is no error, no match and the entry site (R12). -/
theorem Status.Consistent.of_busy (h : st.Consistent) (hb : st.phase = .busy) :
    st.err = .noError ∧ st.matched = false ∧ st.site = .entry := by
  have herr : st.err = .noError := h.errIffError.2 (by simp [hb])
  refine ⟨herr, Bool.eq_false_iff.2 fun hm => ?_, ?_⟩
  · simpa [hb] using h.matchOnlyVerify hm
  · cases hsite : st.site with
    | entry => rfl
    | verifyLoop => simpa [herr] using h.siteOnlyVerify hsite

theorem Status.Consistent.finish (h : st.Consistent) (hb : st.phase = .busy) (hop : st.op = 1#4 ∨ st.op = 2#4) :
    st.finish.Consistent where
  errIffError := by simp [h.of_busy hb]
  neverTolerance := h.neverTolerance
  siteOnlyVerify := h.siteOnlyVerify
  matchOnlyVerify := by simp [h.of_busy hb]
  doneOp _ := hop.imp_right .inl
  idleStatus := by simp

theorem Status.Consistent.finishMatch (h : st.Consistent) (hb : st.phase = .busy) (hop : st.op = 3#4) (m : Bool) :
    (st.finishMatch m).Consistent where
  errIffError := by simp [h.of_busy hb]
  neverTolerance := h.neverTolerance
  siteOnlyVerify := h.siteOnlyVerify
  matchOnlyVerify _ := ⟨rfl, hop⟩
  doneOp _ := .inr (.inr hop)
  idleStatus := by simp

end

/-! ### The operations of the block -/

section
variable {s t : State}

/-- The invariant does not speak of the schedule or of the reply. -/
theorem State.Inv.with_bus_reply (h : s.Inv) (bus : List BusEvent) (reply : Reply) :
    State.Inv { s with bus := bus, reply := reply } := { h with }

theorem State.Inv.popEvent (h : s.Inv) (rest : List BusEvent) : (popEvent rest s).Inv :=
  h.with_bus_reply rest s.reply

theorem State.Inv.answer (h : s.Inv) (r : Reply) : (answer r s).Inv := h.with_bus_reply s.bus r

/-- A state in which no call is in progress and the key is erased meets the invariant if its outcome does. -/
theorem State.Inv.of_erased (hkey : t.key = []) (hsnap : t.snap = none) (hphase : t.status.phase ≠ .busy)
    (hst : t.status.Consistent) (hinfo : t.status.phase ≠ .error → t.errInfo = 0#32) (hres : t.ResultOk) : t.Inv where
  keyWf := by rw [hkey, Memory.wf_nil]
  snapOnlyBusy _ := hsnap
  snapAgrees hb := absurd hb hphase
  errInfoZero := hinfo
  resultOk := hres
  __ := hst

/-- Result registers of 0 are right wherever no code has been published (R19, R20). -/
theorem State.resultOk_of_zero (hval : t.codeVal = 0#32) (hascii : t.codeAscii = 0#64)
    (h : t.status.phase = .done → t.status.op = 3#4) : t.ResultOk := by
  rw [State.ResultOk, if_neg]
  · exact ⟨hval, hascii⟩
  · rintro ⟨hdone, hop | hop⟩ <;> simp [h hdone] at hop

theorem raise_inv {e : ErrCode} {info : Word32} {site : Site} (he : e ≠ .noError) (ht : e ≠ .invalidTolerance)
    (hsite : site = .verifyLoop → e = .invalidCounter ∧ s.status.op = 3#4) : (raise e info site s).Inv :=
  .of_erased rfl rfl (by simp) (Status.raise_consistent he ht hsite) (by simp)
    (State.resultOk_of_zero rfl rfl (by simp))

theorem clear_inv : (clear s).Inv :=
  .of_erased rfl rfl (by simp) Status.reset_consistent (by simp) (State.resultOk_of_zero rfl rfl (by simp))

theorem resetWith_inv (cfg : Config) : (State.resetWith cfg).Inv :=
  .of_erased rfl rfl nofun Status.reset_consistent (fun _ => rfl) (State.resultOk_of_zero rfl rfl nofun)

theorem resetBlock_inv : (resetBlock s).Inv := (resetWith_inv s.cfg).with_bus_reply s.bus .none

/-- A call that has begun: only the canonical form of the key buffer is left of the state before. -/
theorem Entered.inv (h : Entered s t) (hs : s.Inv) : t.Inv := by
  cases h with
  | failed op e info he ht => exact raise_inv he ht nofun
  | started sn hk ha =>
    exact {
      keyWf := hs.keyWf
      snapOnlyBusy := by simp
      snapAgrees _ := ⟨sn, rfl, ha, hk⟩
      errInfoZero _ := rfl
      resultOk := State.resultOk_of_zero rfl rfl (by simp)
      __ := Status.begin_enterBusy_consistent sn.op }

/-- A write dropped while BUSY changes `DROPPED` only, of which no clause but that of IDLE speaks. -/
theorem State.Inv.dropWrite (h : s.Inv) (hb : s.status.phase = .busy) : (dropWrite s).Inv :=
  { h with idleStatus := by simp [hb] }

/-- The operand registers and the key buffer apart, an operand write leaves everything (R201). -/
theorem storePort_kept (p : Port) (v : Word32) (s : State) :
    (storePort p v s).cfg = s.cfg ∧ (storePort p v s).errInfo = s.errInfo ∧ (storePort p v s).codeVal = s.codeVal ∧
    (storePort p v s).codeAscii = s.codeAscii ∧ (storePort p v s).snap = s.snap ∧ (storePort p v s).bus = s.bus ∧
    (storePort p v s).reply = s.reply := by
  cases p <;> exact ⟨rfl, rfl, rfl, rfl, rfl, rfl, rfl⟩

/-- An operand write keeps the canonical form of the key buffer, if a key word lies inside it (R22). -/
theorem storePort_keyWf {p : Port} (v : Word32) (hwf : s.key.wf s.cfg.keyMaxBytes = true)
    (hp : ∀ w, p = .key w → 4 * w + 4 ≤ s.cfg.keyMaxBytes) : (storePort p v s).key.wf s.cfg.keyMaxBytes = true := by
  cases p with
  | key w => exact Memory.writeWord_wf hwf v (hp w rfl)
  | _ => exact hwf

theorem State.Inv.storePort {p : Port} (h : s.Inv) (hn : s.status.phase ≠ .busy) (v : Word32)
    (hp : ∀ w, p = .key w → 4 * w + 4 ≤ s.cfg.keyMaxBytes) : (storePort p v s).Inv := by
  have hst := storePort_status p v s
  obtain ⟨hcfg, hinfo, hval, hascii, hsnap, -, -⟩ := storePort_kept p v s
  exact {
    keyWf := hcfg ▸ storePort_keyWf v h.keyWf hp
    snapOnlyBusy := by rw [hst, hsnap]; exact h.snapOnlyBusy
    snapAgrees := by rw [hst]; exact fun hb => absurd hb hn
    errInfoZero := by rw [hst, hinfo]; exact h.errInfoZero
    resultOk := by rw [State.ResultOk, hst, hval, hascii]; exact h.resultOk
    __ := hst ▸ h.status_consistent }

/-- A code below the modulus fits `CODE_VAL` (R19). -/
theorem publishCode_resultOk {code : Nat} (hc : code < Config.modulus) (hop : s.status.op = 1#4 ∨ s.status.op = 2#4) :
    (publishCode code (format6 code) s).ResultOk := by
  have hval : (BitVec.ofNat 32 code).toNat = code := by
    rw [BitVec.toNat_ofNat, Nat.mod_eq_of_lt (hc.trans (by decide))]
  rw [State.ResultOk, if_pos ⟨rfl, hop⟩]
  simpa only [publishCode_codeVal, publishCode_codeAscii, hval, and_true] using hc

/-- A call that has ended: its snapshot's command is `OP` (R23). -/
theorem Finished.inv {sn : Snap} (h : Finished s sn t) (hs : s.Inv) (hb : s.status.phase = .busy)
    (hsn : s.snap = some sn) : t.Inv := by
  obtain ⟨sn', hsn', hagrees, -⟩ := hs.snapAgrees hb
  cases hsn.symm.trans hsn'
  have hst := hs.status_consistent
  have hinfo : s.errInfo = 0#32 := hs.errInfoZero (by simp [hb])
  obtain ⟨hval, hascii⟩ := hs.results_zero_of_busy hb
  have hcode {code : Nat} (hc : code < Config.modulus) (hop : s.status.op = 1#4 ∨ s.status.op = 2#4) :
      (publishCode code (format6 code) s).Inv :=
    .of_erased rfl rfl (by simp) (hst.finish hb hop) (fun _ => hinfo) (publishCode_resultOk hc hop)
  have hmatch (m : Bool) (hop : s.status.op = 3#4) : (publishMatch m s).Inv :=
    .of_erased rfl rfl (by simp) (hst.finishMatch hb hop m) (fun _ => hinfo)
      (State.resultOk_of_zero hval hascii fun _ => hop)
  cases h with
  | hotp code _ hc => exact hcode hc (.inl hagrees.1)
  | totp code _ hc => exact hcode hc (.inr hagrees.1)
  | hit _ => exact hmatch true hagrees.1
  | miss _ => exact hmatch false hagrees.1
  | under i _ => exact raise_inv (by simp) (by simp) fun _ => ⟨rfl, hagrees.1⟩

end

/-! ### The step -/

/-- The machine goes on, in a state that meets the invariant. -/
def GoesOnWell (o : Host.Outcome State Fault Refusal) : Prop := ∃ t, o = .next t ∧ t.Inv

section
variable {s : State}

theorem State.Inv.complete (h : s.Inv) : GoesOnWell (complete s) := by
  obtain ⟨-, hx⟩ | ⟨hb, hnone, -⟩ | ⟨sn, t, hb, hsn, hx, ht⟩ := complete_cases s
  · exact ⟨s, hx, h⟩
  · obtain ⟨sn, hsn, -⟩ := h.snapAgrees hb
    cases hnone.symm.trans hsn
  · exact ⟨t, hx, ht.inv h hb hsn⟩

theorem State.Inv.exec (h : s.Inv) (i : Instr) : GoesOnWell (exec i s) := by
  obtain ⟨_, -, hx⟩ | ⟨-, hb, hx⟩ | ⟨-, -, t, hx, ht⟩ := exec_cases i s
  · exact ⟨_, hx, clear_inv⟩
  · exact ⟨_, hx, h.dropWrite hb⟩
  · exact ⟨t, hx, ht.inv h⟩

theorem State.Inv.illegalCommand (h : s.Inv) (w : Word32) : GoesOnWell (illegalCommand w s) := by
  obtain ⟨hb, hx⟩ | ⟨-, hx⟩ := illegalCommand_cases w s
  · exact ⟨_, hx, h.dropWrite hb⟩
  · exact ⟨_, hx, raise_inv (by simp) (by simp) nofun⟩

theorem State.Inv.regWrite (h : s.Inv) {p : Port} (v : Word32)
    (hp : ∀ w, p = .key w → 4 * w + 4 ≤ s.cfg.keyMaxBytes) : GoesOnWell (regWrite p v s) := by
  obtain ⟨hb, hx⟩ | ⟨hn, hx⟩ := regWrite_cases p v s
  · exact ⟨_, hx, h.dropWrite hb⟩
  · exact ⟨_, hx, h.storePort hn v hp⟩

/-- Each kind of next event, by the lemma about what it runs. -/
theorem Stepped.goesOnWell {o : Host.Outcome State Fault Refusal} (ho : Stepped s o) (h : s.Inv) : GoesOnWell o := by
  cases ho with
  | idle _ => exact h.complete
  | complete rest _ => exact (h.popEvent rest).complete
  | reset rest _ => exact ⟨_, rfl, resetBlock_inv⟩
  | read off size rest _ =>
    obtain ⟨r, hr⟩ := hostRead_eq_answer off size (Machine.popEvent rest s)
    exact ⟨_, rfl, hr ▸ (h.popEvent rest).answer r⟩
  | refusedWrite off size v rest _ _ => exact ⟨_, rfl, (h.popEvent rest).answer .busError⟩
  | command off size v i rest _ _ _ => exact ((h.popEvent rest).answer .written).exec i
  | illegal off size v e rest _ _ _ => exact ((h.popEvent rest).answer .written).illegalCommand v
  | write off size v p rest _ hp _ =>
    exact ((h.popEvent rest).answer .written).regWrite v fun w hw => portOf_key_bound (hw ▸ hp)

theorem State.Inv.step (h : s.Inv) : GoesOnWell (step s) := (step_cases s).goesOnWell h

end

/-- Settles O48, by what each kind of step runs. -/
theorem everyStepKeepsTheInvariant : Obligations.EveryStepKeepsTheInvariant := by
  intro s t hs h
  obtain ⟨u, hu, hinv⟩ := hs.step
  cases hu.symm.trans h
  exact hinv

/-- Settles O49, by the same lemma: the fault for a missing snapshot is excluded by the invariant, and every code
exists. -/
theorem noStepStops : Obligations.NoStepStops := by
  intro s hs
  obtain ⟨t, ht, -⟩ := hs.step
  exact ⟨t, ht⟩

/-- Settles O47: at reset the block is IDLE with no key and all registers 0. -/
theorem resetMeetsTheInvariant : Obligations.ResetMeetsTheInvariant := resetWith_inv

end Sys2Proof.Machine

/-! PROOF. Whole-machine rules (spec/46_control.md): a schedule ends with no call left (R210), and the table of phases
(R209). -/

namespace Sys2Proof.Machine

section
variable {s t : State}

/-! ### The end of a schedule (R210) -/

/-- After `Complete` no call is in progress (R209, R210). -/
theorem complete_not_busy (h : complete s = .next t) : t.status.phase ≠ .busy := by
  by_cases hb : s.status.phase = .busy
  · obtain ⟨sn, hf⟩ := complete_finished hb h
    obtain hp | hp := hf.phase <;> simp [hp]
  · cases (complete_of_not_busy hb).symm.trans h
    exact hb

theorem exec_bus {i : Instr} (h : exec i s = .next t) : t.bus = s.bus := by
  obtain ⟨-, -, -, -, -, -, hbus, -⟩ := exec_otherRegistersKept h
  exact hbus

theorem complete_bus (h : complete s = .next t) : t.bus = s.bus := by
  obtain ⟨-, -, -, -, -, -, hbus, -⟩ := complete_otherRegistersKept h
  exact hbus

theorem illegalCommand_bus {w : Word32} (h : illegalCommand w s = .next t) : t.bus = s.bus := by
  obtain ⟨-, hx⟩ | ⟨-, hx⟩ := illegalCommand_cases w s <;> cases hx.symm.trans h
  · rfl
  · rfl

theorem regWrite_bus {p : Port} {v : Word32} (h : regWrite p v s = .next t) : t.bus = s.bus := by
  obtain ⟨-, hx⟩ | ⟨-, hx⟩ := regWrite_cases p v s <;> cases hx.symm.trans h
  · rfl
  · obtain ⟨-, -, -, -, -, hbus, -⟩ := storePort_kept p v s
    exact hbus

/-- A step takes the next event of the total order and adds none (R48). -/
theorem Stepped.bus {o : Host.Outcome State Fault Refusal} (h : Stepped s o) (ho : o = .next t) :
    t.bus = s.bus.tail := by
  cases h with
  | idle hbus => rw [complete_bus ho, hbus, List.tail_nil]
  | complete rest hbus => rw [complete_bus ho, hbus, popEvent_bus, List.tail_cons]
  | reset rest hbus =>
    cases ho
    rw [hbus, resetBlock_bus, popEvent_bus, List.tail_cons]
  | read off size rest hbus =>
    obtain ⟨r, hr⟩ := hostRead_eq_answer off size (popEvent rest s)
    cases hr ▸ ho
    rw [hbus, answer_bus, popEvent_bus, List.tail_cons]
  | refusedWrite off size v rest hbus hp =>
    cases ho
    rw [hbus, answer_bus, popEvent_bus, List.tail_cons]
  | command off size v i rest hbus hp hd => rw [exec_bus ho, hbus, answer_bus, popEvent_bus, List.tail_cons]
  | illegal off size v e rest hbus hp hd => rw [illegalCommand_bus ho, hbus, answer_bus, popEvent_bus, List.tail_cons]
  | write off size v p rest hbus hp hc => rw [regWrite_bus ho, hbus, answer_bus, popEvent_bus, List.tail_cons]

end

/-- Settles O50, by induction on the events left: each step takes one and keeps the invariant, and the step with none
left is `Complete`. -/
theorem everyCallEndsWithTheSchedule : Obligations.EveryCallEndsWithTheSchedule := by
  intro s hs
  induction hbus : s.bus generalizing s with
  | nil =>
    obtain ⟨t, ht, -⟩ := hs.complete
    exact ⟨t, runSteps_step ((step_nil hbus).trans ht) 0, (complete_bus ht).trans hbus, complete_not_busy ht⟩
  | cons e rest ih =>
    obtain ⟨u, hu, hinv⟩ := hs.step
    have hrest : u.bus = rest := by rw [(step_cases s).bus hu, hbus, List.tail_cons]
    obtain ⟨t, ht, hend⟩ := ih u hinv hrest
    exact ⟨t, (runSteps_step hu _).trans ht, hend⟩

/-! ### The table of phases (R209) -/

section
variable {s t : State}

/-- A call that has ended is in DONE, or in ERROR if it is a VERIFY whose loop went below window 0 (R184, R209). -/
theorem Finished.phase_or_underflow {sn : Snap} (h : Finished s sn t) : t.status.phase = .done ∨
    (t.status.phase = .error ∧ sn.op = 3#4 ∧ t.status.err = .invalidCounter ∧ t.status.site = .verifyLoop) := by
  cases h with
  | hotp => exact .inl rfl
  | totp => exact .inl rfl
  | hit => exact .inl rfl
  | miss => exact .inl rfl
  | under => exact .inr ⟨rfl, rfl, rfl, rfl⟩

/-- `SNAP` holds the operands of the command in `OP` (R23). -/
theorem Snap.Agrees.op {sn : Snap} (h : sn.Agrees s) : s.status.op = sn.op := by
  cases sn with
  | hotp => exact h.1
  | totp => exact h.1
  | verify => exact h.1

/-- The two rows of R209 that a `complete` event, or none, can follow. -/
theorem State.Inv.complete_phase (hs : s.Inv) (h : Machine.complete s = .next t) :
    (s.status.phase ≠ .busy → t.status.phase = s.status.phase) ∧
    (s.status.phase = .busy → t.status.phase = .done ∨
      (t.status.phase = .error ∧ s.status.op = 3#4 ∧ t.status.err = .invalidCounter ∧
        t.status.site = .verifyLoop)) := by
  obtain ⟨hn, hx⟩ | ⟨-, -, hx⟩ | ⟨sn, u, hb, hsn, hx, hu⟩ := complete_cases s <;> cases hx.symm.trans h
  · exact ⟨fun _ => rfl, fun hb => absurd hb hn⟩
  · obtain ⟨sn', hsn', hagrees, -⟩ := hs.snapAgrees hb
    cases hsn.symm.trans hsn'
    exact ⟨fun hn => absurd hb hn, fun _ => hagrees.op ▸ hu.phase_or_underflow⟩

/-- A write that does not reach `CMD` leaves the phase: it is refused, dropped or stored (R42, R201, R205). -/
theorem step_write_phase {off size : Nat} {v : Word32} {rest : List BusEvent} (hbus : s.bus = .write off size v :: rest)
    (hcmd : ¬(off = 0x00 ∧ size = 4)) (h : step s = .next t) : t.status.phase = s.status.phase := by
  cases hp : portOf s.cfg off size with
  | none =>
    cases (step_write_refused hbus hp).symm.trans h
    rfl
  | some p =>
    rw [step_write_port hbus hp fun hc => hcmd (portOf_eq_cmd (hc ▸ hp))] at h
    obtain ⟨-, hx⟩ | ⟨-, hx⟩ := regWrite_cases p v (answer .written (popEvent rest s)) <;> cases hx.symm.trans h
    · rfl
    · rw [storePort_status, answer_status, popEvent_status]

/-- A call is BUSY exactly if it passes its entry checks, and else in ERROR (R226); `third` says when the command's own
check passes. -/
theorem enterCall_phase {op : BitVec 4} {alg : Nat} {bad : Option (ErrCode × Word32)} {snapOf : Alg → Snap}
    {third : Prop} (hthird : bad = none ↔ third) :
    ((resolve alg).isSome ∧ keyLenLegal s = true ∧ third →
      (enterCall op alg bad snapOf s).status.phase = .busy) ∧
    (¬((resolve alg).isSome ∧ keyLenLegal s = true ∧ third) →
      (enterCall op alg bad snapOf s).status.phase = .error) := by
  obtain ⟨ha, h⟩ | ⟨a, ha, hk, h⟩ | ⟨a, e, info, ha, hk, hbad, h⟩ | ⟨a, ha, hk, hbad, h⟩ :=
    enterCall_cases s op alg bad snapOf <;> rw [h, ← hthird]
  · simp [ha]
  · simp [hk]
  · simp [hbad]
  · simp [ha, hk, hbad]

theorem zeroCounter_eq_none_iff : zeroCounter s = none ↔ s.counter ≠ 0#64 := by
  simp [zeroCounter]

theorem emptyCode_eq_none_iff : emptyCode s = none ↔ s.pcodeLen ≠ 0#32 := by
  simp [emptyCode]

/-- The two rows of R209 that an accepted command other than CLEAR can follow. -/
theorem exec_phase {i : Instr} (hi : ∀ ign, i ≠ .clear ign) (hn : s.status.phase ≠ .busy) (h : exec i s = .next t) :
    (i.ChecksPass s → t.status.phase = .busy) ∧ (¬i.ChecksPass s → t.status.phase = .error) := by
  cases i with
  | clear ign => exact absurd rfl (hi ign)
  | hotp alg =>
    cases (whenAccepted_of_not_busy s hn).symm.trans h
    exact enterCall_phase zeroCounter_eq_none_iff
  | totp alg =>
    cases (whenAccepted_of_not_busy s hn).symm.trans h
    exact enterCall_phase zeroCounter_eq_none_iff
  | verify alg tolv =>
    cases (exec_verify_of_not_busy hn alg tolv).symm.trans h
    exact enterCall_phase emptyCode_eq_none_iff

end

/-- The entry checks read neither the schedule nor the reply. -/
theorem checksPass_answer_popEvent (i : Instr) (r : Reply) (rest : List BusEvent) (s : State) :
    i.ChecksPass (answer r (popEvent rest s)) ↔ i.ChecksPass s := by
  cases i <;> rfl

/-- Settles O43, each row of the table by the lemma about what the event runs. -/
theorem phaseChangesOnlyAsTheTableSays : Obligations.PhaseChangesOnlyAsTheTableSays := by
  intro s t hs h
  refine ⟨?complete, fun rest hbus => ?reset, fun off size rest hbus => ?read,
    fun off size v rest hbus hcmd => step_write_phase hbus hcmd h, fun w rest hbus hw hb => ?dropped,
    fun w rest ign hbus hd => ?clear, fun w rest e hbus hd hn => ?illegal, fun w rest i hbus hd hi hn => ?command⟩
  case complete =>
    rintro (hbus | ⟨rest, hbus⟩)
    · exact hs.complete_phase ((step_nil hbus).symm.trans h)
    · exact (hs.popEvent rest).complete_phase ((step_complete hbus).symm.trans h)
  case reset =>
    cases (step_reset hbus).symm.trans h
    rfl
  case read =>
    obtain ⟨r, hr⟩ := hostRead_eq_answer off size (popEvent rest s)
    cases (hr ▸ step_read hbus).symm.trans h
    rfl
  case dropped =>
    cases (step_drop_cmd hb hbus fun hop => hw _ (decode_of_op_clear hop)).symm.trans h
    exact ⟨hb, rfl⟩
  case clear =>
    cases (step_clear hbus (op_of_decode_clear hd)).symm.trans h
    rfl
  case illegal =>
    have hpop : (answer .written (popEvent rest s)).status.phase ≠ .busy := hn
    rw [step_illegal hbus hd, illegalCommand_of_not_busy w hpop] at h
    cases h
    exact ⟨rfl, rfl⟩
  case command =>
    rw [step_command hbus hd] at h
    simpa only [checksPass_answer_popEvent] using exec_phase (s := answer .written (popEvent rest s)) hi hn h

end Sys2Proof.Machine

/-! PROOF. The register window (spec/20_memory.md, spec/46_control.md R201): reset, commands and reads as steps (R46,
R51, R260), refused accesses (R42), what an operand write stores (R22, R201), and that no access answers a key byte
(R22, R254). -/

namespace Sys2Proof.Machine

/-! ### Steps by the next event -/

/-- Settles O2: reset puts every register at the value of `State.resetWith` and leaves the schedule. -/
theorem resetInAnyPhaseGivesTheResetState : Obligations.ResetInAnyPhaseGivesTheResetState :=
  fun _ _ hbus => step_reset hbus

/-- Settles O54, by the definition of the reset state. -/
theorem resetStateHasTheDefaultConfiguration : Obligations.ResetStateHasTheDefaultConfiguration := ⟨rfl, rfl⟩

/-- A table word that decodes is a word of at most 32 bits that `decode` accepts. -/
theorem decode_of_decodeTableWord {nbits w : Nat} {i : Instr} (h : decodeTableWord nbits w = some i) :
    decode (BitVec.ofNat 32 (w % 2 ^ nbits)) = .ok i := by
  unfold decodeTableWord at h
  split at h
  · cases hd : decode (BitVec.ofNat 32 (w % 2 ^ nbits)) with
    | ok j =>
      rw [hd] at h
      cases h
      rfl
    | error e =>
      rw [hd] at h
      cases h
  · cases h

/-- Settles O18: the write of `CMD` is fetched as a command, and `withFetchWord` puts such a write in front. -/
theorem stepRunsTheDecodedCommand : Obligations.StepRunsTheDecodedCommand :=
  ⟨fun _ _ _ _ hbus hd => step_command hbus hd,
    fun s _ _ _ h => step_command (rest := s.bus) rfl (decode_of_decodeTableWord h)⟩

/-- The answer to a read is the same from every state with the same registers, and nothing but the reply changes
(R46). -/
theorem hostRead_with_bus_reply (off size : Nat) (s : State) (bus : List BusEvent) (reply : Reply) :
    hostRead off size { s with bus := bus, reply := reply } =
      { s with bus := bus, reply := (hostRead off size s).reply } := by
  cases hp : portOf s.cfg off size with
  | none => simp only [hostRead, hp, answer]
  | some p =>
    rw [hostRead_port hp, hostRead_port (s := { s with bus := bus, reply := reply }) hp]
    rfl

/-- Settles O6, by `hostRead_with_bus_reply`. -/
theorem readsHaveNoSideEffect : Obligations.ReadsHaveNoSideEffect := by
  intro s off size rest hbus
  have hstep (bus rest' : List BusEvent) (reply : Reply) (h : bus = .read off size :: rest') :
      step { s with bus := bus, reply := reply } =
        .next { s with bus := rest', reply := (hostRead off size s).reply } := by
    rw [step_read (rest := rest') h]
    exact congrArg Host.Outcome.next (hostRead_with_bus_reply off size s rest' reply)
  have hfirst := hstep s.bus rest s.reply hbus
  exact ⟨hfirst, hstep, fun rest' hrest => ⟨_, _, hfirst, hstep rest rest' _ hrest, rfl, rfl⟩⟩

/-! ### Refused accesses (R42) -/

theorem portOf_eq_none {cfg : Config} {off size : Nat}
    (h : size ≠ 4 ∨ off % 4 ≠ 0 ∨ 0x100 + cfg.keyMaxBytes ≤ off) : portOf cfg off size = none := if_neg (by omega)

/-- Settles O7: no word is reached, so a read and a write answer the bus error alike. -/
theorem refusedAccessChangesNoState : Obligations.RefusedAccessChangesNoState := by
  intro s off size v rest hrefused hbus
  have hp : portOf s.cfg off size = none := portOf_eq_none hrefused
  obtain hread | hwrite := hbus
  · rw [step_read hread, hostRead, popEvent_cfg, hp]
    rfl
  · rw [step_write_refused hwrite hp]
    rfl

/-! ### What an operand write stores (R201) -/

/-- A register of two halves is the high one followed by the low one (R15). -/
theorem joinHalves_eq_append (lo hi : Word32) : joinHalves lo hi = hi ++ lo := by
  apply BitVec.eq_of_toNat_eq
  have hlo := lo.isLt
  have hhi := hi.isLt
  rw [BitVec.toNat_append, ← Nat.shiftLeft_add_eq_or_of_lt hlo, Nat.shiftLeft_eq, joinHalves, BitVec.toNat_ofNat]
  omega

theorem setLowHalf_eq_append (v : Word64) (x : Word32) : setLowHalf v x = v.extractLsb' 32 32 ++ x := by
  rw [setLowHalf, joinHalves_eq_append, highHalf_eq_extractLsb']

theorem setHighHalf_eq_append (v : Word64) (x : Word32) : setHighHalf v x = x ++ v.extractLsb' 0 32 := by
  rw [setHighHalf, joinHalves_eq_append, lowHalf_eq_extractLsb']

/-- A write of a word below the key buffer, the block not BUSY; for a literal offset `decide` shows that it is reached
and is not `CMD`. -/
theorem step_store_below_key {s : State} {off : Nat} {v : Word32} {rest : List BusEvent} (hn : s.status.phase ≠ .busy)
    (h : s.bus = .write off 4 v :: rest) (hoff : (off % 4 = 0 ∧ off < 0x100) ∧ portAt off ≠ .cmd := by decide) :
    step s = .next (storePort (portAt off) v (answer .written (popEvent rest s))) :=
  step_store hn h (portOf_below_key hoff.1.1 hoff.1.2) hoff.2

/-- Settles O8: each offset by its row of the map. -/
theorem operandWritesStoreTheWord : Obligations.OperandWritesStoreTheWord := by
  intro s v rest hn
  simp only [← setLowHalf_eq_append, ← setHighHalf_eq_append]
  exact ⟨fun h => step_store_below_key hn h, fun h => step_store_below_key hn h, fun h => step_store_below_key hn h,
    fun h => step_store_below_key hn h, fun h => step_store_below_key hn h, fun h => step_store_below_key hn h,
    fun h => step_store_below_key hn h, fun h => step_store_below_key hn h, fun h => step_store_below_key hn h⟩

/-- A byte lane is an eight-bit field of the word (R45). -/
theorem byteLane_eq_field (v : Word32) (k : Nat) : byteLane v k = BitVec.ofNat 8 (field v (8 * k + 7) (8 * k)) := by
  apply BitVec.eq_of_toNat_eq
  have hwidth : 8 * k + 7 - 8 * k + 1 = 8 := by omega
  rw [byteLane, field, hwidth, BitVec.toNat_ofNat, BitVec.toNat_ofNat, Nat.mod_mod]

/-- Settles O9: the word is reached inside the buffer, and a word write replaces its four byte lanes. -/
theorem keyWordWriteReplacesFourBytes : Obligations.KeyWordWriteReplacesFourBytes := by
  intro s w v rest hn hwf hw hbus
  have hcap : 4 * w + 4 ≤ s.cfg.keyMaxBytes := by omega
  have hp : portOf s.cfg (0x100 + 4 * w) 4 = some (.key w) := by
    rw [portOf_aligned (by omega) (by omega), portAt_key]
  have hread (x : Nat) := Memory.read_writeWord hwf v hcap x
  have hlane (k : Nat) (hk : k < 4) : (s.key.writeWord w v).read (4 * w + k) =
      BitVec.ofNat 8 (field v (8 * k + 7) (8 * k)) := by
    rw [hread, if_pos (by omega), byteLane_eq_field, Nat.mul_add_mod, Nat.mod_eq_of_lt hk]
  exact ⟨_, step_store hn hbus hp nofun, Memory.writeWord_wf hwf v hcap, hlane 0 (by decide), hlane 1 (by decide),
    hlane 2 (by decide), hlane 3 (by decide), fun x hx => (hread x).trans (if_neg (by omega))⟩

/-! ### Writing twice (R46) -/

@[simp] theorem setLowHalf_setLowHalf (v : Word64) (x : Word32) : setLowHalf (setLowHalf v x) x = setLowHalf v x := by
  rw [setLowHalf, highHalf_setLowHalf, setLowHalf]

@[simp] theorem setHighHalf_setHighHalf (v : Word64) (x : Word32) :
    setHighHalf (setHighHalf v x) x = setHighHalf v x := by
  rw [setHighHalf, lowHalf_setHighHalf, setHighHalf]

/-- A canonical buffer is fixed by its bytes, so the second write of a word finds the bytes it writes (R22). -/
theorem Memory.writeWord_writeWord {m : Memory} {cap w : Nat} (hwf : m.wf cap = true) (v : Word32)
    (hw : 4 * w + 4 ≤ cap) : (m.writeWord w v).writeWord w v = m.writeWord w v := by
  have hwf' := Memory.writeWord_wf hwf v hw
  refine Memory.eq_of_read (Memory.writeWord_wf hwf' v hw) hwf' fun x => ?_
  rw [Memory.read_writeWord hwf' v hw, Memory.read_writeWord hwf v hw]
  split <;> rfl

theorem storePort_storePort {p : Port} (v : Word32) {s : State} (hwf : s.key.wf s.cfg.keyMaxBytes = true)
    (hp : ∀ w, p = .key w → 4 * w + 4 ≤ s.cfg.keyMaxBytes) :
    storePort p v (storePort p v s) = storePort p v s := by
  cases p with
  | key w => simp only [storePort, Memory.writeWord_writeWord hwf v (hp w rfl)]
  | _ => simp only [storePort, setLowHalf_setLowHalf, setHighHalf_setHighHalf]

/-- An operand write does not read the schedule or the reply. -/
theorem storePort_answer_popEvent (p : Port) (v : Word32) (r : Reply) (rest : List BusEvent) (s : State) :
    storePort p v (answer r (popEvent rest s)) = answer r (popEvent rest (storePort p v s)) := by
  cases p <;> rfl

/-- Settles O11: the write is refused twice, dropped twice, or stores the same word twice. -/
theorem operandWritesAreIdempotent : Obligations.OperandWritesAreIdempotent := by
  intro s off v rest hs hcmd hbus
  cases hp : portOf s.cfg off 4 with
  | none =>
    exact ⟨_, step_write_refused hbus hp, step_write_refused (s := answer .busError (popEvent _ s)) rfl hp⟩
  | some p =>
    have hne : p ≠ .cmd := fun hc => hcmd (portOf_eq_cmd (hc ▸ hp)).1
    by_cases hb : s.status.phase = .busy
    · exact ⟨_, step_drop hb hbus hp hne,
        step_drop (s := dropWrite (answer .written (popEvent _ s))) hb rfl hp hne⟩
    · have hfirst := step_store hb hbus hp hne
      rw [storePort_answer_popEvent] at hfirst
      refine ⟨_, hfirst, ?_⟩
      rw [step_store (p := p) (by simpa using hb) rfl (by simpa [(storePort_kept p v s).1] using hp) hne,
        storePort_answer_popEvent,
        storePort_answer_popEvent, storePort_storePort v hs.keyWf fun w hw => portOf_key_bound (hw ▸ hp)]
      rfl

/-! ### The key buffer cannot be read (R22, R254) -/

/-- `t'` is `t` but for the key buffer. -/
def State.SameButKey (t t' : State) : Prop := ∃ k : Memory, t' = { t with key := k }

section
variable {s s' : State}

/-- No register a read can reach holds a key byte: a key word reads as 0 (R200). -/
theorem State.SameButKey.hostRead (h : s.SameButKey s') (off size : Nat) :
    (hostRead off size s).SameButKey (hostRead off size s') := by
  obtain ⟨k, rfl⟩ := h
  refine ⟨k, ?_⟩
  cases hp : portOf s.cfg off size with
  | none => simp only [Machine.hostRead, hp, answer]
  | some p =>
    rw [hostRead_port hp, hostRead_port (s := { s with key := k }) hp]
    cases p <;> rfl

theorem State.SameButKey.storePort (h : s.SameButKey s') (p : Port) (v : Word32) :
    (storePort p v s).SameButKey (storePort p v s') := by
  obtain ⟨k, rfl⟩ := h
  cases p with
  | key w => exact ⟨k.writeWord w v, rfl⟩
  | _ => exact ⟨k, rfl⟩

theorem State.SameButKey.popEvent (h : s.SameButKey s') (rest : List BusEvent) :
    (popEvent rest s).SameButKey (popEvent rest s') := by
  obtain ⟨k, rfl⟩ := h
  exact ⟨k, rfl⟩

theorem State.SameButKey.answer (h : s.SameButKey s') (r : Reply) : (answer r s).SameButKey (answer r s') := by
  obtain ⟨k, rfl⟩ := h
  exact ⟨k, rfl⟩

/-- Reset leaves nothing of the key. -/
theorem State.SameButKey.resetBlock (h : s.SameButKey s') : (resetBlock s).SameButKey (resetBlock s') := by
  obtain ⟨k, rfl⟩ := h
  exact ⟨[], rfl⟩

/-- The two steps of states that differ only in the key, in a phase and before an event that start no call, end in such
states again. -/
theorem State.SameButKey.step (h : s.SameButKey s') (hn : s.status.phase ≠ .busy) (hc : s.NoCommandComing) :
    ∃ t t', step s = .next t ∧ step s' = .next t' ∧ t.SameButKey t' ∧ t.status.phase ≠ .busy := by
  obtain ⟨hn', hbus', hcfg'⟩ : s'.status.phase ≠ .busy ∧ s'.bus = s.bus ∧ s'.cfg = s.cfg := by
    obtain ⟨k, rfl⟩ := h
    exact ⟨hn, rfl, rfl⟩
  cases hbus : s.bus with
  | nil =>
    exact ⟨s, s', (step_nil hbus).trans (complete_of_not_busy hn),
      (step_nil (hbus'.trans hbus)).trans (complete_of_not_busy hn'), h, hn⟩
  | cons e rest =>
    rw [hbus] at hbus'
    have hpop := h.popEvent rest
    cases e with
    | complete =>
      exact ⟨_, _, (step_complete hbus).trans (complete_of_not_busy hn),
        (step_complete hbus').trans (complete_of_not_busy hn'), hpop, hn⟩
    | reset => exact ⟨_, _, step_reset hbus, step_reset hbus', hpop.resetBlock, by simp⟩
    | read off size =>
      refine ⟨_, _, step_read hbus, step_read hbus', hpop.hostRead off size, ?_⟩
      obtain ⟨r, hr⟩ := hostRead_eq_answer off size (Machine.popEvent rest s)
      rw [hr]
      exact hn
    | write off size v =>
      cases hp : portOf s.cfg off size with
      | none =>
        exact ⟨_, _, step_write_refused hbus hp, step_write_refused hbus' (hcfg' ▸ hp), hpop.answer .busError, hn⟩
      | some p =>
        have hne : p ≠ .cmd := fun hcmd => hc off size v (by simp [hbus]) (portOf_eq_cmd (hcmd ▸ hp)).1
        refine ⟨_, _, (step_write_port hbus hp hne).trans (whenAccepted_of_not_busy _ hn),
          (step_write_port hbus' (hcfg' ▸ hp) hne).trans (whenAccepted_of_not_busy _ hn'),
          (hpop.answer .written).storePort p v, ?_⟩
        rw [storePort_status]
        exact hn

/-- The events still to come after a step were to come before it. -/
theorem State.NoCommandComing.step {t : State} (hc : s.NoCommandComing) (h : step s = .next t) :
    t.NoCommandComing := by
  intro off size v hv
  rw [(step_cases s).bus h] at hv
  exact hc off size v (List.mem_of_mem_tail hv)

end

/-- Settles O13, by induction on the number of steps. -/
theorem keyBufferIsNeverReadable : Obligations.KeyBufferIsNeverReadable := by
  intro n s k hn hc
  suffices h : ∀ s', s.SameButKey s' → ∃ t t', runSteps n s = .next t ∧ runSteps n s' = .next t' ∧ t.SameButKey t' by
    obtain ⟨t, t', ht, ht', k', rfl⟩ := h _ ⟨k, rfl⟩
    exact ⟨t, k', ht, ht'⟩
  induction n generalizing s with
  | zero => exact fun s' h => ⟨s, s', rfl, rfl, h⟩
  | succ n ih =>
    intro s' h
    obtain ⟨u, u', hu, hu', hsame, hn⟩ := h.step hn hc
    obtain ⟨t, t', ht, ht', hsame⟩ := ih u hn (hc.step hu) u' hsame
    exact ⟨t, t', (runSteps_step hu n).trans ht, (runSteps_step hu' n).trans ht', hsame⟩

end Sys2Proof.Machine

/-! PROOF. The outcome of a call as a function of its operands (spec/00_scope.md R8, spec/10_state.md R22, R25), and the
tolerance of VERIFY (spec/45_window_verifier.md R188). -/

namespace Sys2Proof.Machine

/-! ### A call from its `CMD` write to its end -/

/-- A command other than CLEAR, the block not BUSY, goes through the entry checks with its own operands; from two states
that hold the same ones, with the same third check and snapshot (R207, R226). -/
theorem exec_enters_alike {i : Instr} {s s' : State} (hi : ∀ ign, i ≠ .clear ign) (hn : s.status.phase ≠ .busy)
    (hn' : s'.status.phase ≠ .busy) (h : i.SameOperands s s') : s.keyLen = s'.keyLen ∧
    ∃ op alg bad snapOf, exec i s = .next (enterCall op alg bad snapOf s) ∧
      exec i s' = .next (enterCall op alg bad snapOf s') := by
  cases i with
  | clear ign => exact absurd rfl (hi ign)
  | hotp alg =>
    obtain ⟨hlen, hkey, hcounter⟩ := h
    refine ⟨hlen, _, _, _, _, whenAccepted_of_not_busy s hn, (whenAccepted_of_not_busy s' hn').trans ?_⟩
    simp only [zeroCounter, hkey, hcounter]
  | totp alg =>
    obtain ⟨hlen, hkey, hcounter⟩ := h
    refine ⟨hlen, _, _, _, _, whenAccepted_of_not_busy s hn, (whenAccepted_of_not_busy s' hn').trans ?_⟩
    simp only [zeroCounter, hkey, hcounter]
  | verify alg tolv =>
    obtain ⟨hlen, hkey, htime, htol, hplen, hpcode⟩ := h
    have hwindow : currentWindow s = currentWindow s' := by rw [currentWindow, htime, currentWindow]
    have heff : effectiveTolerance tolv s = effectiveTolerance tolv s' := by
      cases tolv with
      | false => rfl
      | true => exact htol rfl
    refine ⟨hlen, _, _, _, _, whenAccepted_of_not_busy s hn, (whenAccepted_of_not_busy s' hn').trans ?_⟩
    simp only [emptyCode, hkey, hwindow, heff, hplen, hpcode]

/-- The entry checks read the key length and the configuration only: with these alike, two calls fail alike or are both
BUSY with the same snapshot. -/
theorem enterCall_alike {s s' : State} (hlen : s.keyLen = s'.keyLen) (hcfg : s.cfg = s'.cfg) (op : BitVec 4) (alg : Nat)
    (bad : Option (ErrCode × Word32)) (snapOf : Alg → Snap) :
    (∃ e info, enterCall op alg bad snapOf s = raise e info .entry (beginCall op s) ∧
      enterCall op alg bad snapOf s' = raise e info .entry (beginCall op s')) ∨
    (∃ sn, enterCall op alg bad snapOf s = enterBusy sn (beginCall op s) ∧
      enterCall op alg bad snapOf s' = enterBusy sn (beginCall op s')) := by
  have hlegal : keyLenLegal s' = keyLenLegal s := (keyLenLegal_congr hlen hcfg).symm
  obtain ⟨ha, h⟩ | ⟨a, ha, hk, h⟩ | ⟨a, e, info, ha, hk, rfl, h⟩ | ⟨a, ha, hk, rfl, h⟩ :=
    enterCall_cases s op alg bad snapOf
  · exact .inl ⟨_, _, h, enterCall_invalidAlgorithm ha⟩
  · exact .inl ⟨_, _, h, hlen ▸ enterCall_invalidKey (ha ▸ rfl) (hlegal.trans hk)⟩
  · exact .inl ⟨_, _, h, enterCall_bad (ha ▸ rfl) (hlegal.trans hk)⟩
  · exact .inr ⟨_, h, enterCall_started ha (hlegal.trans hk)⟩

/-- The operations a call can end with (R209). -/
inductive CallEnd : (State → State) → Prop
  | code (code : Nat) (str : List Byte) : CallEnd (publishCode code str)
  | verdict (matched : Bool) : CallEnd (publishMatch matched)
  | underflow (i : Nat) : CallEnd (raise .invalidCounter (BitVec.ofNat 32 i) .verifyLoop)

/-- `SNAP` alone decides which of them, whatever the state (R8, R210); `completeCall_finished` is the end in one
state. -/
theorem completeCall_end (sn : Snap) : ∃ f, CallEnd f ∧ ∀ s, completeCall sn s = .next (f s) := by
  cases sn with
  | hotp a key counter =>
    obtain ⟨code, h, -⟩ := hotpCode_eq a key counter
    exact ⟨_, .code code (format6 code), fun s => by simp only [completeCall, h, completeCode]⟩
  | totp a key counter =>
    obtain ⟨code, h, -⟩ := hotpCode_eq a key counter
    exact ⟨_, .code code (format6 code), fun s => by simp only [completeCall, totpCode, h, completeCode]⟩
  | verify a key window tol plen pcode =>
    cases h : verifyLoop a key window tol plen pcode with
    | hit => exact ⟨_, .verdict true, fun s => by simp only [completeCall, h, completeVerdict]⟩
    | miss => exact ⟨_, .verdict false, fun s => by simp only [completeCall, h, completeVerdict]⟩
    | under i => exact ⟨_, .underflow i, fun s => by simp only [completeCall, h, completeVerdict]⟩
    | noCode => exact absurd h (verifyFrom_ne_noCode _ _ _ _ _ _ _)

/-- `Complete` right after a call has become BUSY runs its own snapshot. -/
theorem complete_enterBusy (sn : Snap) (s : State) :
    complete (enterBusy sn s) = completeCall sn (enterBusy sn s) := by
  simp only [complete, enterBusy_status, Status.enterBusy_phase, if_true, enterBusy_snap]

/-- `Complete` after a failed entry check finds the block in ERROR (R207, R210). -/
theorem complete_raise (e : ErrCode) (info : Word32) (site : Site) (s : State) :
    complete (raise e info site s) = .next (raise e info site s) := complete_of_not_busy (by simp)

theorem complete_clear (s : State) : complete (clear s) = .next (clear s) := complete_of_not_busy (by simp)

/-- Beginning a call discards the previous outcome (R207), so what a call ends with does not depend on it. -/
theorem CallEnd.sameOutcome {f : State → State} (h : CallEnd f) (sn : Snap) (op : BitVec 4) (s s' : State) :
    (f (enterBusy sn (beginCall op s))).SameOutcome (f (enterBusy sn (beginCall op s'))) := by
  cases h with
  | code => exact ⟨rfl, rfl, rfl, rfl⟩
  | verdict => exact ⟨rfl, rfl, rfl, rfl⟩
  | underflow => exact ⟨rfl, rfl, rfl, rfl⟩

/-- Settles O44: the two calls fail the same check, or have the same snapshot and so the same end. -/
theorem outcomeDependsOnTheOperandsAlone : Obligations.OutcomeDependsOnTheOperandsAlone := by
  intro i s s' hcfg hn hn' hsame
  by_cases hi : ∃ ign, i = .clear ign
  · obtain ⟨ign, rfl⟩ := hi
    exact ⟨_, _, _, _, exec_clear ign s, exec_clear ign s', complete_clear s, complete_clear s', rfl, rfl, rfl, rfl⟩
  obtain ⟨hlen, op, alg, bad, snapOf, hx, hx'⟩ := exec_enters_alike (not_exists.1 hi) hn hn' hsame
  obtain ⟨e, info, ht, ht'⟩ | ⟨sn, ht, ht'⟩ := enterCall_alike hlen hcfg op alg bad snapOf
  · exact ⟨_, _, _, _, hx.trans (congrArg _ ht), hx'.trans (congrArg _ ht'), complete_raise .., complete_raise ..,
      rfl, rfl, rfl, rfl⟩
  · obtain ⟨f, hf, hend⟩ := completeCall_end sn
    exact ⟨_, _, _, _, hx.trans (congrArg _ ht), hx'.trans (congrArg _ ht'), (complete_enterBusy sn _).trans (hend _),
      (complete_enterBusy sn _).trans (hend _), hf.sameOutcome sn op s s'⟩

/-- The bytes below the length fix the secret, and with it the operands of every command (R22). -/
theorem sameOperands_with_key {s : State} {k : Memory} (h : ∀ x < s.keyLen.toNat, k.read x = s.key.read x) (i : Instr) :
    i.SameOperands s { s with key := k } := by
  have hsecret : secret s = secret { s with key := k } := Memory.slice_congr fun x hx => (h x hx).symm
  cases i with
  | clear => trivial
  | hotp => exact ⟨rfl, hsecret, rfl⟩
  | totp => exact ⟨rfl, hsecret, rfl⟩
  | verify => exact ⟨rfl, hsecret, rfl, fun _ => rfl, rfl, rfl⟩

/-- Every end of a call wipes the key buffer (R25). -/
theorem CallEnd.with_key {f : State → State} (h : CallEnd f) (s : State) (k : Memory) :
    f { s with key := k } = f s := by
  cases h with
  | code => rfl
  | verdict => rfl
  | underflow => rfl

/-- Settles O45: the operands are the same, so the calls go alike, and at their end no key byte is left that could
differ. -/
theorem keyBytesAboveTheLengthAreIgnored : Obligations.KeyBytesAboveTheLengthAreIgnored := by
  intro i s k hn hk
  by_cases hi : ∃ ign, i = .clear ign
  · obtain ⟨ign, rfl⟩ := hi
    exact ⟨_, _, _, exec_clear ign s, exec_clear ign _, complete_clear s, complete_clear s⟩
  obtain ⟨hlen, op, alg, bad, snapOf, hx, hx'⟩ :=
    exec_enters_alike (not_exists.1 hi) hn (s' := { s with key := k }) hn (sameOperands_with_key hk i)
  obtain ⟨e, info, ht, ht'⟩ | ⟨sn, ht, ht'⟩ := enterCall_alike (s' := { s with key := k }) hlen rfl op alg bad snapOf
  · exact ⟨_, _, _, hx.trans (congrArg _ ht), hx'.trans (congrArg _ ht'), complete_raise .., complete_raise ..⟩
  · obtain ⟨f, hf, hend⟩ := completeCall_end sn
    refine ⟨_, _, _, hx.trans (congrArg _ ht), hx'.trans (congrArg _ ht'), (complete_enterBusy sn _).trans (hend _),
      (complete_enterBusy sn _).trans ((hend _).trans (congrArg _ ?_))⟩
    exact hf.with_key (enterBusy sn (beginCall op s)) k

/-- Settles O46: the call has erased the key, so the next one fails its second check with a key length of 0. -/
theorem secondCommandWithoutAKeyFails : Obligations.SecondCommandWithoutAKeyFails := by
  intro s t alg i hb h halg hi
  have hn := complete_not_busy h
  obtain ⟨sn, hf⟩ := complete_finished hb h
  obtain ⟨⟨-, hlen, -⟩, -⟩ := hf.erasedFrom
  obtain ⟨op, bad, snapOf, hx⟩ : ∃ op bad snapOf, exec i t = .next (enterCall op alg bad snapOf t) := by
    obtain rfl | rfl | ⟨tolv, rfl⟩ := hi
    · exact ⟨_, _, _, whenAccepted_of_not_busy t hn⟩
    · exact ⟨_, _, _, whenAccepted_of_not_busy t hn⟩
    · exact ⟨_, _, _, exec_verify_of_not_busy hn alg tolv⟩
  rw [enterCall_invalidKey halg (keyLenLegal_eq_false_iff.2 (.inl (by rw [hlen]; rfl)))] at hx
  exact ⟨_, hx, rfl, rfl, hlen⟩

/-! ### The tolerance (R188) -/

/-- The window counter is the time divided by 30: the quotient fits the register (R181). -/
theorem currentWindow_toNat (s : State) : (currentWindow s).toNat = s.time.toNat / 30 := by
  have htime := s.time.isLt
  rw [currentWindow, BitVec.toNat_ofNat, Config.stepSeconds]
  omega

/-- The comparison with the word of a code string is equality of the strings (R185). -/
theorem codeEqual_ofNat_le {plen : Word32} {str str' : List Byte} (hlen : str.length = 6) (hlen' : str'.length = 6) :
    codeEqual plen (BitVec.ofNat 48 (le str')) str = true ↔ plen = 6#32 ∧ str = str' := by
  rw [codeEqual_iff]
  refine and_congr_right fun _ => ⟨fun h => List.ext_getElem (hlen.trans hlen'.symm) fun k hk hk' => ?_, ?_⟩
  · have hbyte := h k (hlen ▸ hk)
    rw [extractLsb'_ofNat_le hlen', List.getD_eq_getElem _ _ hk, List.getD_eq_getElem _ _ hk'] at hbyte
    exact hbyte.symm
  · rintro rfl k -
    exact extractLsb'_ofNat_le hlen k

/-- The end of a VERIFY call by the verdict of its window loop, as the host sees it (R180 "at Complete"). -/
theorem complete_verdict {s : State} {a : Alg} {key : List Byte} {window : Word64} {tol plen : Word32}
    {pcode : BitVec 48} (hb : s.status.phase = .busy) (hs : s.snap = some (.verify a key window tol plen pcode)) :
    ∃ t, complete s = .next t ∧
      (verifyLoop a key window tol plen pcode = .hit → t.status.phase = .done ∧ t.status.matched = true) ∧
      (verifyLoop a key window tol plen pcode = .miss → t.status.phase = .done ∧ t.status.matched = false) ∧
      (∀ i, verifyLoop a key window tol plen pcode = .under i → t.status.phase = .error ∧
        t.status.err = .invalidCounter ∧ t.status.site = .verifyLoop ∧ t.errInfo = BitVec.ofNat 32 i) := by
  obtain ⟨hv, hx⟩ | ⟨hv, hx⟩ | ⟨i, hv, hx⟩ := complete_publishesVerdict hb hs <;> rw [hv]
  · exact ⟨_, hx, fun _ => ⟨rfl, rfl⟩, nofun, nofun⟩
  · exact ⟨_, hx, nofun, fun _ => ⟨rfl, rfl⟩, nofun⟩
  · refine ⟨_, hx, nofun, nofun, ?_⟩
    rintro _ ⟨⟩
    exact ⟨rfl, rfl, rfl, rfl⟩

/-- Settles O38, by the conditions under which the loop gives each verdict: the candidate `d` back fits, and another
fits only if it has the same string. -/
theorem toleranceDecidesWhichOldCodeIsAccepted : Obligations.ToleranceDecidesWhichOldCodeIsAccepted := by
  intro s alg a d code hn ha hk hplen hd hcode hpcode
  have hx : exec (.verify alg true) s = .next (enterBusy (verifySnap true s a) (beginCall 3#4 s)) := by
    rw [exec_verify_of_not_busy hn, emptyCode_of_ne (by simp [hplen]), enterCall_started ha hk]
  obtain ⟨u, hu, hhit, hmiss, -⟩ :=
    complete_verdict (s := enterBusy (verifySnap true s a) (beginCall 3#4 s)) (by simp) rfl
  obtain ⟨hhit_iff, hmiss_iff, -⟩ := verifyLoopSearchesBackwardWindows a (secret s) (currentWindow s)
    (effectiveTolerance true s) s.pcodeLen (presentedCode s)
  have hpresented : presentedCode s = BitVec.ofNat 48 (le (format6 code)) := hpcode
  rw [currentWindow_toNat] at hhit_iff hmiss_iff
  refine ⟨_, u, hx, hu, fun htol => hhit (hhit_iff.2 ⟨d, htol, hd, code, _, hcode, ?_⟩),
    fun htol hnone => hmiss (hmiss_iff.2 ⟨(htol.trans_le hd).le, fun i hi ⟨c, str, hc, heq⟩ => hnone i hi c ?_⟩)⟩
  · rw [hpresented, codeEqual_ofNat_le (format6_length code) (format6_length code)]
    exact ⟨hplen, rfl⟩
  · obtain ⟨c', hc', -⟩ := hotpCode_eq a (secret s) (BitVec.ofNat 64 (s.time.toNat / 30 - i))
    cases hc.symm.trans hc'
    rw [hpresented, codeEqual_ofNat_le (format6_length c) (format6_length code)] at heq
    rw [hc, heq.2]

end Sys2Proof.Machine

/-! PROOF. The counter's message (spec/43_counter_codec.md R151) and the hash engines (spec/41_sha1_sha2.md,
spec/42_sha3.md): the message schedules, the rounds, the Keccak steps and the sponge. -/

namespace Sys2Proof.Machine

/-! ### Lists written entry by entry -/

theorem getD_map_range {α : Type} {n i : Nat} (h : i < n) (f : Nat → α) (d : α) :
    ((List.range n).map f).getD i d = f i := by
  rw [List.getD_eq_getElem _ _ (by simpa using h), List.getElem_map, List.getElem_range]

/-- The states a fold goes through, one for each entry taken. -/
theorem foldl_states {α β : Type} (f : α → β → α) (h : α) (l : List β) (d : β) :
    ∃ r : Nat → α, r 0 = h ∧ (∀ t < l.length, r (t + 1) = f (r t) (l.getD t d)) ∧ l.foldl f h = r l.length := by
  refine ⟨fun t => (l.take t).foldl f h, rfl, fun t ht => ?_, by simp only [List.take_length]⟩
  simp only [List.take_succ_eq_append_getElem ht, List.foldl_append, List.foldl_cons, List.foldl_nil,
    List.getD_eq_getElem _ _ ht]

/-- The same for a fold over two lists side by side. -/
theorem foldl_zip_states {α β γ : Type} (f : α → β → γ → α) (h : α) {l : List β} {l' : List γ}
    (hlen : l'.length = l.length) (d : β) (d' : γ) :
    ∃ r : Nat → α, r 0 = h ∧ (∀ t < l.length, r (t + 1) = f (r t) (l.getD t d) (l'.getD t d')) ∧
      (l.zip l').foldl (fun r p => f r p.1 p.2) h = r l.length := by
  have hzip : (l.zip l').length = l.length := by rw [List.length_zip, hlen, Nat.min_self]
  obtain ⟨r, hstart, hround, hend⟩ := foldl_states (fun r p => f r p.1 p.2) h (l.zip l') (d, d')
  rw [hzip] at hround hend
  refine ⟨r, hstart, fun t ht => ?_, hend⟩
  rw [hround t ht, List.getD_eq_getElem _ _ (hzip ▸ ht), List.getElem_zip, List.getD_eq_getElem _ _ ht,
    List.getD_eq_getElem _ _ (hlen ▸ ht)]

/-- A number of `m + n` bytes is its high part and its low `n` bytes. -/
theorem tobe_add (m n v : Nat) : tobe (m + n) v = tobe m (v / 256 ^ n) ++ tobe n v := by
  induction n generalizing v with
  | zero => simp [tobe]
  | succ n ih =>
    rw [← Nat.add_assoc, tobe_succ, ih, tobe_succ n, Nat.div_div_eq_div_mul, ← Nat.pow_succ', List.append_assoc]

/-- Settles O55: the high four bytes are those of 0. -/
theorem smallCountersHaveZeroHighBytes : Obligations.SmallCountersHaveZeroHighBytes := by
  intro c hc
  have hhigh : c.toNat / 256 ^ 4 = 0 := Nat.div_eq_of_lt hc
  rw [encodeCounter, tobe_add 4 4, hhigh]
  rfl

/-! ### The message schedules (R100, R111, R121) -/

section
variable {w : Nat} {next : List (BitVec w) → BitVec w}

theorem scheduleMore_length (n : Nat) (newest : List (BitVec w)) :
    (scheduleMore next n newest).length = n + newest.length := by
  induction n generalizing newest with
  | zero => simp [scheduleMore]
  | succ n ih =>
    rw [scheduleMore, ih, List.length_cons]
    omega

theorem scheduleMore_drop (n : Nat) (newest : List (BitVec w)) : (scheduleMore next n newest).drop n = newest := by
  induction n generalizing newest with
  | zero => rfl
  | succ n ih => rw [scheduleMore, ← List.drop_drop, ih, List.drop_one, List.tail_cons]

/-- Each new word is the recurrence of the words before it, which stand behind it in the list. -/
theorem scheduleMore_drop_of_lt {m n : Nat} (h : m < n) (newest : List (BitVec w)) :
    (scheduleMore next n newest).drop m =
      next ((scheduleMore next n newest).drop (m + 1)) :: (scheduleMore next n newest).drop (m + 1) := by
  induction n generalizing newest with
  | zero => omega
  | succ n ih =>
    obtain hlt | rfl := Nat.lt_succ_iff_lt_or_eq.1 h
    · exact ih hlt _
    · rw [scheduleMore_drop, scheduleMore, scheduleMore_drop]

variable {n : Nat} {block : List Byte}

theorem schedule_length : (schedule next n block).length = n + (blockWords w block).length := by
  rw [schedule, List.length_reverse, scheduleMore_length, List.length_reverse]

/-- The schedule begins with the words of the block. -/
theorem schedule_take : (schedule next n block).take (blockWords w block).length = blockWords w block := by
  rw [schedule, List.take_reverse, scheduleMore_length, List.length_reverse, Nat.add_sub_cancel, scheduleMore_drop,
    List.reverse_reverse]

/-- Every later word is the recurrence of a list whose entry `k` is the word `k + 1` places before it. -/
theorem schedule_getD {t : Nat} (hlo : (blockWords w block).length ≤ t) (hhi : t < n + (blockWords w block).length) :
    ∃ newest, (schedule next n block).getD t 0 = next newest ∧
      ∀ k < t, newest.getD k 0 = (schedule next n block).getD (t - (k + 1)) 0 := by
  have hlen : (scheduleMore next n (blockWords w block).reverse).length = n + (blockWords w block).length := by
    rw [scheduleMore_length, List.length_reverse]
  have hget {j : Nat} (hj : j < n + (blockWords w block).length) : (schedule next n block).getD j 0 =
      ((scheduleMore next n (blockWords w block).reverse).drop (n + (blockWords w block).length - 1 - j)).getD 0 0 := by
    rw [schedule, List.getD_reverse _ (by rwa [hlen]), hlen]
    simp [List.getD_eq_getElem?_getD]
  refine ⟨(scheduleMore next n (blockWords w block).reverse).drop (n + (blockWords w block).length - 1 - t + 1),
    ?_, fun k hk => ?_⟩
  · rw [hget hhi, scheduleMore_drop_of_lt (by omega), List.getD_cons_zero]
  · rw [hget (by omega)]
    simp only [List.getD_eq_getElem?_getD, List.getElem?_drop]
    congr 2
    omega

end

/-- A block of sixteen words (R101). -/
theorem blockWords_length {w : Nat} {block : List Byte} (hw : 0 < w / 8) (h : block.length = 16 * (w / 8)) :
    (blockWords w block).length = 16 := by
  rw [blockWords_of_length hw h, List.length_map, List.length_range]

/-- The schedule of a SHA-2 core, whichever its width (R111, R121). -/
theorem schedule_sha2Next {w : Nat} (p : Sha2Core w) (n : Nat) {block : List Byte}
    (h16 : (blockWords w block).length = 16) :
    let ws := schedule (sha2Next p) n block
    ws.length = n + 16 ∧ ws.take 16 = blockWords w block ∧
    ∀ t, 16 ≤ t → t < n + 16 → ws.getD t 0 =
      p.ssig1 (ws.getD (t - 2) 0) + ws.getD (t - 7) 0 + p.ssig0 (ws.getD (t - 15) 0) + ws.getD (t - 16) 0 := by
  refine ⟨h16 ▸ schedule_length, h16 ▸ schedule_take, fun t hlo hhi => ?_⟩
  obtain ⟨newest, ht, hnewest⟩ := schedule_getD (next := sha2Next p) (h16 ▸ hlo) (h16 ▸ hhi)
  rw [ht, sha2Next, hnewest 1 (by omega), hnewest 6 (by omega), hnewest 14 (by omega), hnewest 15 (by omega)]

/-- Settles O25: `schedule_getD` for the recurrence of SHA-1, `schedule_sha2Next` for the two SHA-2 cores. -/
theorem messageSchedulesFollowTheRecurrence : Obligations.MessageSchedulesFollowTheRecurrence := by
  refine ⟨fun block hblock => ?_,
    fun block hblock => schedule_sha2Next sha256Core 48 (blockWords_length (by decide) hblock),
    fun block hblock => schedule_sha2Next sha512Core 64 (blockWords_length (by decide) hblock)⟩
  have h16 : (blockWords 32 block).length = 16 := blockWords_length (by decide) hblock
  refine ⟨by rw [schedule_length, h16], h16 ▸ schedule_take, fun t hlo hhi => ?_⟩
  obtain ⟨newest, ht, hnewest⟩ := schedule_getD (next := sha1Next) (n := 64) (h16 ▸ hlo) (h16 ▸ hhi)
  rw [ht, sha1Next, hnewest 2 (by omega), hnewest 7 (by omega), hnewest 13 (by omega), hnewest 15 (by omega)]

/-! ### The rounds of SHA-1 and SHA-2 -/

/-- The length of a schedule of a block of sixteen words. -/
theorem schedule_length_of_block {w n : Nat} {next : List (BitVec w) → BitVec w} {block : List Byte} (hw : 0 < w / 8)
    (h : block.length = 16 * (w / 8)) : (schedule next n block).length = n + 16 := by
  rw [schedule_length, blockWords_length hw h]

/-- Settles O56: the rounds are the states of the fold over the numbered words. -/
theorem sha1FollowsItsRounds : Obligations.Sha1FollowsItsRounds := by
  refine ⟨fun h block hblock => ?rounds, fun msg => ?digest⟩
  case rounds =>
    have hlen : (schedule sha1Next 64 block).length = (List.range 80).length := by
      rw [schedule_length_of_block (by decide) hblock, List.length_range]
    obtain ⟨r, hstart, hround, hend⟩ := foldl_zip_states sha1Round h hlen 0 0
    rw [List.length_range] at hround hend
    refine ⟨r, hstart, fun t ht => ?_, by rw [sha1Block, hend]⟩
    have hnumber : (List.range 80).getD t 0 = t := by simpa using getD_map_range ht id 0
    rw [hround t ht, hnumber]
    rfl
  case digest =>
    simp only [sha1, wordBytes, List.flatMap_cons, List.flatMap_nil, List.append_nil, List.append_assoc]
    rfl

/-- The rounds of a SHA-2 core are the states of the fold over its constants and words (R111, R121). -/
theorem sha2Block_rounds {w : Nat} (p : Sha2Core w) (h : Sha2Regs w) {block : List Byte}
    (hk : 16 ≤ p.k.length) (hw : 0 < w / 8) (hblock : block.length = 16 * (w / 8)) :
    ∃ r : Nat → Sha2Regs w, r 0 = h ∧
      (∀ t < p.k.length, r (t + 1) = sha2Round p (r t) (p.k.getD t 0)
        ((schedule (sha2Next p) (p.k.length - 16) block).getD t 0)) ∧
      sha2Block p h block = ⟨h.a + (r p.k.length).a, h.b + (r p.k.length).b, h.c + (r p.k.length).c,
        h.d + (r p.k.length).d, h.e + (r p.k.length).e, h.f + (r p.k.length).f, h.g + (r p.k.length).g,
        h.hh + (r p.k.length).hh⟩ := by
  have hlen : (schedule (sha2Next p) (p.k.length - 16) block).length = p.k.length := by
    rw [schedule_length_of_block hw hblock, Nat.sub_add_cancel hk]
  obtain ⟨r, hstart, hround, hend⟩ := foldl_zip_states (sha2Round p) h hlen 0 0
  exact ⟨r, hstart, hround, by rw [sha2Block, hend]⟩

/-- Settles O57: the rounds by `sha2Block_rounds`, the functions and the digests by their definitions. -/
theorem sha2CoresFollowTheirRounds : Obligations.Sha2CoresFollowTheirRounds := by
  refine ⟨fun h block hblock => ?core256, fun h block hblock => ?core512, fun x => ⟨rfl, rfl⟩, fun x => ⟨rfl, rfl⟩,
    fun msg => ⟨rfl, rfl, rfl, rfl, rfl, rfl⟩⟩
  case core256 => exact sha2Block_rounds sha256Core h (by decide) (by decide) hblock
  case core512 => exact sha2Block_rounds sha512Core h (by decide) (by decide) hblock

/-! ### The Keccak steps (R133 to R136) -/

/-- The state built from `f` has `f x y` at every coordinate, the indices modulo 5 (R130). -/
@[simp] theorem Lanes.at_build (f : Nat → Nat → Word64) (x y : Nat) : (Lanes.build f).at x y = f (x % 5) (y % 5) := by
  have hx : (x % 5 + 5 * (y % 5)) % 5 = x % 5 := by omega
  have hy : (x % 5 + 5 * (y % 5)) / 5 = y % 5 := by omega
  rw [Lanes.at, Lanes.build, getD_map_range (by omega), hx, hy]

theorem Lanes.at_mod (a : Lanes) (x y : Nat) : a.at (x % 5) y = a.at x y := by
  rw [Lanes.at, Nat.mod_mod, Lanes.at]

/-- Settles O26, lane by lane; the target of rho and pi is read back to the lane it comes from. -/
theorem keccakStepsActOnTheLanesAsWritten : Obligations.KeccakStepsActOnTheLanesAsWritten := by
  intro a x y hx hy c
  refine ⟨?theta, ?rhoPi, ?chi, fun rc => ?iota⟩
  case theta =>
    simp only [keccakTheta, Lanes.at_build, Nat.mod_eq_of_lt hx, Nat.mod_eq_of_lt hy, getD_map_range hx,
      getD_map_range (Nat.mod_lt _ (show 0 < 5 by decide))]
    rfl
  case rhoPi =>
    have hsource : (y % 5 + 3 * ((2 * x + 3 * y) % 5 % 5)) % 5 = x := by omega
    rw [keccakRhoPi, Lanes.at_build, hsource, Nat.mod_eq_of_lt hy]
  case chi => rw [keccakChi, Lanes.at_build, Nat.mod_eq_of_lt hx, Nat.mod_eq_of_lt hy, Lanes.at_mod, Lanes.at_mod]
  case iota => rw [keccakIota, Lanes.at_build, Nat.mod_eq_of_lt hx, Nat.mod_eq_of_lt hy]

/-! ### The sponge (R131, R137, R138) -/

/-- A block reaches the lanes it has eight bytes for, and leaves the others (R131). -/
theorem keccakAbsorb_at (a : Lanes) (block : List Byte) {x y : Nat} (hx : x < 5) (hy : y < 5) :
    (keccakAbsorb a block).at x y =
      if x + 5 * y < block.length / 8 then
        a.at x y ^^^ BitVec.ofNat 64 (le ((block.drop (8 * (x + 5 * y))).take 8))
      else a.at x y := by
  rw [keccakAbsorb, Lanes.at_build, Nat.mod_eq_of_lt hx, Nat.mod_eq_of_lt hy, blocksOf, List.map_map]
  split
  case isTrue hin => rw [getD_map_range hin, Function.comp_apply, Nat.mul_comm]
  case isFalse hout =>
    rw [List.getD_eq_default _ _ (by simpa using hout)]
    exact BitVec.xor_zero

/-- Byte `k` of `tole_n(v)` has `k` bytes of `v` below it. -/
theorem tole_getD {n k : Nat} (hk : k < n) (v : Nat) : (tole n v).getD k 0 = BitVec.ofNat 8 (v / 2 ^ (8 * k)) :=
  getD_map_range hk _ _

theorem laneBytes_length (a : Lanes) : (laneBytes a).length = 8 * a.length := by
  simp [laneBytes, List.length_flatMap, Nat.mul_comm]

/-- The bytes of a state, eight for each lane, low byte first (R131). -/
theorem laneBytes_getD (a : Lanes) (j : Nat) :
    (laneBytes a).getD j 0 = (a.getD (j / 8) 0).extractLsb' (8 * (j % 8)) 8 := by
  induction a generalizing j with
  | nil => simp [laneBytes]
  | cons l a ih =>
    rw [laneBytes, List.flatMap_cons]
    obtain hj | hj := Nat.lt_or_ge j 8
    · rw [List.getD_append _ _ _ _ (by rwa [tole_length]), tole_getD hj, Nat.div_eq_of_lt hj, Nat.mod_eq_of_lt hj,
        List.getD_cons_zero, BitVec.extractLsb', Nat.shiftRight_eq_div_pow]
    · obtain ⟨j, rfl⟩ := Nat.exists_eq_add_of_le' hj
      rw [List.getD_append_right _ _ _ _ (by rwa [tole_length]), tole_length, Nat.add_sub_cancel, Nat.add_mod_right,
        Nat.add_div_right _ (by decide), List.getD_cons_succ]
      exact ih j

/-- Settles O58: the lanes by `keccakAbsorb_at`, the rounds as the states of the fold over the constants, the bytes by
`laneBytes_getD`, the digests by their definitions. -/
theorem sha3FollowsTheSponge : Obligations.Sha3FollowsTheSponge := by
  refine ⟨fun a block x y _ hx hy => keccakAbsorb_at a block hx hy, fun a => ?rounds, fun a j ha hj => ?bytes,
    fun msg => ⟨rfl, rfl, rfl, rfl⟩⟩
  case rounds =>
    obtain ⟨st, hstart, hround, hend⟩ := foldl_states
      (fun a rc => keccakIota rc (keccakChi (keccakRhoPi (keccakTheta a)))) a keccakRC 0
    exact ⟨st, hstart, hround, hend⟩
  case bytes =>
    refine ⟨by rw [laneBytes_length, ha], ?_⟩
    have hlane : j / 8 % 5 % 5 + 5 * (j / 8 / 5 % 5) = j / 8 := by omega
    rw [laneBytes_getD, Lanes.at, hlane]
    rfl

end Sys2Proof.Machine

/-! PROOF. The host sequences (spec/30_encoding.md R67, R68): the load of the key and the operands, the command, the
polls, and the outcome the host reads. -/

namespace Sys2Proof.Machine

/-! ### The operand writes of a sequence -/

/-- The offsets of the operand registers other than the key (R41). -/
def operandOffsets : List Nat := [0x0C, 0x10, 0x14, 0x18, 0x1C, 0x20, 0x24, 0x28, 0x2C]

theorem operandOffsets_reached :
    ∀ off ∈ operandOffsets, (off % 4 = 0 ∧ off < 0x100) ∧ portAt off ≠ .cmd := by decide

/-- The host's writes of these words, in this order. -/
def storeEvents (ws : List (Nat × Word32)) : List BusEvent := ws.map fun w => .write w.1 4 w.2

/-- What they leave in the registers. -/
def storeAll (ws : List (Nat × Word32)) (s : State) : State := ws.foldl (fun s w => storePort (portAt w.1) w.2 s) s

theorem storeAll_nil (s : State) : storeAll [] s = s := rfl

theorem storeAll_cons (off : Nat) (v : Word32) (ws : List (Nat × Word32)) (s : State) :
    storeAll ((off, v) :: ws) s = storeAll ws (storePort (portAt off) v s) := rfl

/-- The registers a host sequence writes, by offset (R41). -/
theorem portAt_operands :
    portAt 0x10 = .counterLo ∧ portAt 0x14 = .counterHi ∧ portAt 0x18 = .timeLo ∧ portAt 0x1C = .timeHi ∧
    portAt 0x20 = .tolerance ∧ portAt 0x24 = .pcodeLen ∧ portAt 0x28 = .pcode0 ∧ portAt 0x2C = .pcode1 := by decide

theorem storeAll_answer_popEvent (ws : List (Nat × Word32)) (r : Reply) (rest : List BusEvent) (s : State) :
    storeAll ws (answer r (popEvent rest s)) = answer r (popEvent rest (storeAll ws s)) := by
  induction ws generalizing s with
  | nil => rfl
  | cons w ws ih => exact (congrArg (storeAll ws) (storePort_answer_popEvent ..)).trans (ih _)

theorem runSteps_stores {ws : List (Nat × Word32)} (hws : ∀ w ∈ ws, w.1 ∈ operandOffsets) {rest : List BusEvent}
    {s : State} (hn : s.status.phase ≠ .busy) (hbus : s.bus = storeEvents ws ++ rest) :
    ∃ r, runSteps ws.length s = .next (answer r (popEvent rest (storeAll ws s))) := by
  induction ws generalizing s with
  | nil => exact ⟨s.reply, by rw [show rest = s.bus from hbus.symm]; rfl⟩
  | cons w ws ih =>
    obtain ⟨hw, hws⟩ := List.forall_mem_cons.1 hws
    have hstep := step_store_below_key hn hbus (operandOffsets_reached _ hw)
    rw [storePort_answer_popEvent] at hstep
    obtain ⟨r, hrun⟩ := ih hws (s := answer .written (popEvent (storeEvents ws ++ rest) (storePort (portAt w.1) w.2 s)))
      (by simpa using hn) rfl
    exact ⟨r, (runSteps_step hstep _).trans (hrun.trans (by rw [storeAll_answer_popEvent]; rfl))⟩

/-- A register both of whose halves are written holds them (R15, R201). -/
theorem setHighHalf_setLowHalf (v : Word64) (lo hi : Word32) : setHighHalf (setLowHalf v lo) hi = joinHalves lo hi := by
  rw [setHighHalf, lowHalf_setLowHalf]

/-- The registers once the key and the operands of a call are loaded. -/
def loaded (key : List Byte) (ws : List (Nat × Word32)) (k : Memory) (s : State) : State :=
  storeAll ws { s with key := k, keyLen := BitVec.ofNat 32 key.length }

/-- The writes of a sequence before its command. -/
theorem runSteps_loadOperands {key : List Byte} {ws : List (Nat × Word32)} (hws : ∀ w ∈ ws, w.1 ∈ operandOffsets)
    {rest : List BusEvent} {s : State} (hn : s.status.phase ≠ .busy) (hwf : s.key.wf s.cfg.keyMaxBytes = true)
    (hlen : key.length ≤ s.cfg.keyMaxBytes) (hbus : s.bus = loadKey key ++ (storeEvents ws ++ rest)) :
    ∃ (k : Memory) (r : Reply), k.slice key.length = key ∧
      runSteps ((loadKey key).length + ws.length) s = .next (answer r (popEvent rest (loaded key ws k s))) := by
  obtain ⟨k, hload, -, hk⟩ := runSteps_loadKey key _ hn hwf hlen hbus
  obtain ⟨r, hstores⟩ := runSteps_stores hws (rest := rest) (s := answer .written (popEvent (storeEvents ws ++ rest)
    { s with key := k, keyLen := BitVec.ofNat 32 key.length })) hn rfl
  rw [storeAll_answer_popEvent] at hstores
  exact ⟨k, r, hk, (runSteps_add hload _).trans hstores⟩

section
variable {key : List Byte} {p : State}

/-- The length register of a loaded key holds its length (R14). -/
theorem keyLen_toNat_of_loaded (hlen : p.keyLen = BitVec.ofNat 32 key.length) (hword : key.length < 2 ^ 32) :
    p.keyLen.toNat = key.length := by
  rw [hlen, BitVec.toNat_ofNat, Nat.mod_eq_of_lt hword]

theorem secret_of_loaded (hlen : p.keyLen = BitVec.ofNat 32 key.length) (hword : key.length < 2 ^ 32)
    (hkey : p.key.slice key.length = key) : secret p = key := by
  rw [secret, keyLen_toNat_of_loaded hlen hword, hkey]

theorem keyLenLegal_of_loaded (hlen : p.keyLen = BitVec.ofNat 32 key.length) (hword : key.length < 2 ^ 32)
    (hmin : 1 ≤ key.length) (hmax : key.length ≤ p.cfg.keyMaxBytes) : keyLenLegal p = true := by
  rw [keyLenLegal_eq_true_iff, keyLen_toNat_of_loaded hlen hword]
  exact ⟨hmin, hmax⟩

end

/-! ### The command and the wait -/

/-- Every row of the algorithm table has a code that fits the field (R61, R80). -/
theorem algFits_algCode (a : Alg) : algFits (algCode a) = true := by
  cases a <;> rfl

/-- The `CMD` write of a command, as R67 writes it, runs it. -/
theorem step_issue {i : Instr} {s : State} {rest : List BusEvent} (hi : i.wellFormed = true)
    (hbus : s.bus = issue i :: rest) : step s = exec i (answer .written (popEvent rest s)) :=
  step_command hbus (decodeOfEncodeIsTheCommand i hi)

/-- A read of `STATUS` answers its word and changes nothing else. -/
theorem step_readStatus {s : State} {rest : List BusEvent} (hbus : s.bus = .read 0x04 4 :: rest) :
    step s = .next (answer (.data s.status.word) (popEvent rest s)) := by
  rw [step_read hbus, hostRead_port (portOf_below_key (by decide) (by decide))]
  rfl

theorem runSteps_polls (polls : Nat) {rest : List BusEvent} {s : State}
    (hbus : s.bus = List.replicate polls (.read 0x04 4) ++ rest) :
    ∃ r, runSteps polls s = .next (answer r (popEvent rest s)) := by
  induction polls generalizing s with
  | zero => exact ⟨s.reply, by rw [show rest = s.bus from hbus.symm]; rfl⟩
  | succ polls ih =>
    have hstep := step_readStatus (rest := List.replicate polls (.read 0x04 4) ++ rest) hbus
    obtain ⟨r, hrun⟩ := ih (s := answer (.data s.status.word) (popEvent _ s)) rfl
    exact ⟨r, (runSteps_step hstep polls).trans hrun⟩

/-- The wait of R67: the polls, the block's `Complete`, and the read that shows the host the outcome. -/
theorem runSteps_waitDone (polls : Nat) {rest : List BusEvent} {s : State} (hbus : s.bus = waitDone polls ++ rest) :
    ∃ b : State, b.status = s.status ∧ b.snap = s.snap ∧ ∀ t, complete b = .next t →
      runSteps (waitDone polls).length s = .next (answer (.data t.status.word) (popEvent rest t)) := by
  rw [waitDone, List.append_assoc] at hbus
  obtain ⟨r, hpolls⟩ := runSteps_polls polls hbus
  refine ⟨answer r (popEvent (.read 0x04 4 :: rest) s), rfl, rfl, fun t ht => ?_⟩
  have hlen : (waitDone polls).length = polls + 2 := by simp [waitDone]
  have hcomplete : step (answer r (popEvent (.complete :: .read 0x04 4 :: rest) s)) = .next t :=
    (step_complete rfl).trans ht
  have hread := step_readStatus (s := t) (rest := rest) (complete_bus ht)
  rw [hlen, runSteps_add hpolls 2]
  exact (runSteps_step hcomplete 1).trans (runSteps_step hread 0)

/-- The command becomes BUSY from `p` with a snapshot that meets `want`. -/
def Starts (i : Instr) (want : Snap → Prop) (p : State) : Prop :=
  ∃ op sn, exec i p = .next (enterBusy sn (beginCall op p)) ∧ want sn

/-- The events of a sequence: the key, the operands, the command and the wait (R68). -/
def hostSequence (key : List Byte) (ws : List (Nat × Word32)) (i : Instr) (polls : Nat) : List BusEvent :=
  loadKey key ++ (storeEvents ws ++ (issue i :: waitDone polls))

/-- Only the last answer and the last schedule count. -/
theorem answer_popEvent_twice (r r' : Reply) (bus bus' : List BusEvent) (s : State) :
    answer r' (popEvent bus' (answer r (popEvent bus s))) = answer r' (popEvent bus' s) := rfl

/-- A whole sequence whose command becomes BUSY: `b` is the BUSY block when its turn comes, and what `Complete` makes of
it is what the host reads. -/
theorem runSteps_hostSequence {key : List Byte} {ws : List (Nat × Word32)} {i : Instr} {polls : Nat}
    {rest : List BusEvent} {s : State} {want : Snap → Prop} (hws : ∀ w ∈ ws, w.1 ∈ operandOffsets)
    (hi : i.wellFormed = true) (hn : s.status.phase ≠ .busy) (hwf : s.key.wf s.cfg.keyMaxBytes = true)
    (hlen : key.length ≤ s.cfg.keyMaxBytes) (hbus : s.bus = hostSequence key ws i polls ++ rest)
    (hstart : ∀ (k : Memory) (r : Reply) (bus : List BusEvent), k.slice key.length = key →
      Starts i want (answer r (popEvent bus (loaded key ws k s)))) :
    ∃ (b : State) (sn : Snap), b.status.phase = .busy ∧ b.status.err = .noError ∧ b.snap = some sn ∧ want sn ∧
      ∀ t, complete b = .next t → runSteps (hostSequence key ws i polls).length s =
        .next (answer (.data t.status.word) (popEvent rest t)) := by
  simp only [hostSequence, List.append_assoc, List.cons_append] at hbus
  obtain ⟨k, r, hk, hload⟩ := runSteps_loadOperands hws hn hwf hlen hbus
  obtain ⟨op, sn, hx, hsn⟩ := hstart k .written (waitDone polls ++ rest) hk
  have hcall := step_issue (s := answer r (popEvent (issue i :: (waitDone polls ++ rest)) (loaded key ws k s))) hi rfl
  rw [answer_popEvent_twice, hx] at hcall
  obtain ⟨b, hstatus, hsnap, hwait⟩ := runSteps_waitDone polls (rest := rest)
    (s := enterBusy sn (beginCall op (answer .written (popEvent (waitDone polls ++ rest) (loaded key ws k s))))) rfl
  refine ⟨b, sn, by simp [hstatus], by simp [hstatus], by rw [hsnap, enterBusy_snap], hsn, fun t ht => ?_⟩
  have hcount : (hostSequence key ws i polls).length =
      (loadKey key).length + ws.length + ((waitDone polls).length + 1) := by
    simp only [hostSequence, List.length_append, List.length_cons, storeEvents, List.length_map]
    omega
  rw [hcount, runSteps_add hload, runSteps_step hcall]
  exact hwait t ht

/-! ### `hotp` and `totp` -/

/-- The snapshot of a call for the code of a key and counter, HOTP or TOTP (R23). -/
def Snap.AsksForCode (a : Alg) (key : List Byte) (counter : Word64) (sn : Snap) : Prop :=
  sn = .hotp a key counter ∨ sn = .totp a key counter

theorem Snap.AsksForCode.completeCall {a : Alg} {key : List Byte} {counter : Word64} {sn : Snap}
    (h : sn.AsksForCode a key counter) (s : State) :
    completeCall sn s = completeCode (hotpCode a key counter) s := by
  obtain rfl | rfl := h
  · rfl
  · rfl

/-- A call for a code whose checks pass (R170, R171). -/
theorem codeCall_starts {i : Instr} {a : Alg} (hi : i = .hotp (algCode a) ∨ i = .totp (algCode a)) {p : State}
    (hn : p.status.phase ≠ .busy) (hk : keyLenLegal p = true) (hc : p.counter ≠ 0#64) :
    Starts i (Snap.AsksForCode a (secret p) p.counter) p := by
  obtain ⟨hmin, hmax⟩ := keyLenLegal_eq_true_iff.1 hk
  obtain rfl | rfl := hi
  · obtain ⟨hstart, -⟩ := codeCall_enters (whenAccepted_of_not_busy p hn)
    exact ⟨_, _, hstart a (resolve_algCode a) hmin hmax hc, .inl rfl⟩
  · obtain ⟨hstart, -⟩ := codeCall_enters (whenAccepted_of_not_busy p hn)
    exact ⟨_, _, hstart a (resolve_algCode a) hmin hmax hc, .inr rfl⟩

/-- The operand writes of `hotp` and `totp` (R68). -/
def counterStores (counter : Word64) : List (Nat × Word32) := [(0x10, lowHalf counter), (0x14, highHalf counter)]

theorem loaded_counterStores (key : List Byte) (counter : Word64) (k : Memory) (s : State) :
    loaded key (counterStores counter) k s =
      { s with key := k, keyLen := BitVec.ofNat 32 key.length, counter := counter } := by
  simp only [loaded, counterStores, storeAll_cons, storeAll_nil, portAt_operands, storePort, setHighHalf_setLowHalf,
    joinHalves_halves]

/-- `hotp` and `totp` are one sequence but for the command. -/
theorem codeSequence_eq {a : Alg} {key : List Byte} {counter : Word64} {polls : Nat} {seq : List BusEvent}
    (h : seq = hotpSequence a key counter polls ∨ seq = totpSequence a key counter polls) :
    ∃ i : Instr, (i = .hotp (algCode a) ∨ i = .totp (algCode a)) ∧
      seq = hostSequence key (counterStores counter) i polls := by
  obtain rfl | rfl := h
  · exact ⟨_, .inl rfl, by simp [hotpSequence, hostSequence, storeEvents, counterStores]⟩
  · exact ⟨_, .inr rfl, by simp [totpSequence, hostSequence, storeEvents, counterStores]⟩

/-- Settles O51: the operands are loaded, the call becomes BUSY with them, and its end publishes their code. -/
theorem hotpAndTotpSequencesReturnTheCode : Obligations.HotpAndTotpSequencesReturnTheCode := by
  intro s a key counter polls seq rest hn hwf hmin hmax hword hcounter hseq hbus
  obtain ⟨i, hi, rfl⟩ := codeSequence_eq hseq
  have hifits : i.wellFormed = true := by obtain rfl | rfl := hi <;> exact algFits_algCode a
  have hstart (k : Memory) (r : Reply) (bus : List BusEvent) (hk : k.slice key.length = key) :
      Starts i (Snap.AsksForCode a key counter) (answer r (popEvent bus (loaded key (counterStores counter) k s))) := by
    rw [loaded_counterStores]
    have hcall := codeCall_starts hi (p := answer r (popEvent bus
      { s with key := k, keyLen := BitVec.ofNat 32 key.length, counter := counter })) hn
      (keyLenLegal_of_loaded rfl hword hmin hmax) hcounter
    rwa [secret_of_loaded rfl hword hk] at hcall
  obtain ⟨b, sn, hb, herr, hsn, hcode, hrun⟩ :=
    runSteps_hostSequence (by simp [counterStores, operandOffsets]) hifits hn hwf hmax hbus hstart
  obtain ⟨code, hcode, -, hcomplete⟩ := complete_publishesCode hb hsn (hcode.completeCall b)
  have hwiped := (publishCode_erasedFrom b code (format6 code)).1
  exact ⟨_, code, hrun _ hcomplete, rfl, hcode, rfl, herr, rfl, rfl, rfl, hwiped⟩

/-! ### `totpValidate` -/

/-- The operand writes of `totpValidate` (R68), the tolerance last if it is supplied. -/
def validateStores (code : List Byte) (tolerance : Option Word32) (now : Word64) : List (Nat × Word32) :=
  [(0x18, lowHalf now), (0x1C, highHalf now), (0x24, BitVec.ofNat 32 code.length),
    (0x28, BitVec.ofNat 32 (le (code.take 4))), (0x2C, BitVec.ofNat 32 (le ((code.drop 4).take 2)))]
    ++ (tolerance.map fun t => (0x20, t)).toList

theorem validateSequence_eq (a : Alg) (key code : List Byte) (tolerance : Option Word32) (now : Word64) (polls : Nat) :
    totpValidateSequence a key code tolerance now polls =
      hostSequence key (validateStores code tolerance now) (.verify (algCode a) tolerance.isSome) polls := by
  cases tolerance <;> simp [totpValidateSequence, hostSequence, storeEvents, validateStores]

/-- The registers of the presented code as the two writes leave them. -/
def pcodeOf (code : List Byte) : Word64 :=
  joinHalves (BitVec.ofNat 32 (le (code.take 4))) (BitVec.ofNat 32 (le ((code.drop 4).take 2)))

theorem loaded_validateStores (key code : List Byte) (tolerance : Option Word32) (now : Word64) (k : Memory)
    (s : State) :
    loaded key (validateStores code tolerance now) k s =
      { s with key := k, keyLen := BitVec.ofNat 32 key.length, time := now, pcodeLen := BitVec.ofNat 32 code.length
               pcode := pcodeOf code, tolerance := tolerance.getD s.tolerance } := by
  cases tolerance with
  | none =>
    simp only [loaded, validateStores, Option.map_none, Option.toList_none, List.append_nil, storeAll_cons,
      storeAll_nil, portAt_operands, storePort, setHighHalf_setLowHalf, joinHalves_halves, pcodeOf, Option.getD_none]
  | some t =>
    simp only [loaded, validateStores, Option.map_some, Option.toList_some, List.cons_append, List.nil_append,
      storeAll_cons, storeAll_nil, portAt_operands, storePort, setHighHalf_setLowHalf, joinHalves_halves, pcodeOf,
      Option.getD_some]

theorem le_append (as bs : List Byte) : le (as ++ bs) = le as + 256 ^ as.length * le bs := by
  induction as with
  | nil => simp [le]
  | cons b as ih =>
    simp only [List.cons_append, le, ih, List.length_cons]
    ring

/-- The first six characters are the four and the two of the two words (R18, R68). -/
theorem le_take_six (code : List Byte) : le (code.take 6) = le (code.take 4) + 2 ^ 32 * le ((code.drop 4).take 2) := by
  rw [List.take_add (i := 4) (j := 2), le_append]
  obtain hlen | hlen := Nat.lt_or_ge code.length 4
  · simp [List.drop_eq_nil_of_le hlen.le, le]
  · rw [List.length_take, Nat.min_eq_left hlen]
    norm_num

/-- A sequence of `n` bytes that fit 32 bits is read back from its word. -/
theorem toNat_ofNat_le {bs : List Byte} (h : bs.length ≤ 4) : (BitVec.ofNat 32 (le bs)).toNat = le bs := by
  have hlt := (le_lt bs).trans_le (Nat.pow_le_pow_right (by decide) (Nat.mul_le_mul_left 8 h))
  rw [BitVec.toNat_ofNat, Nat.mod_eq_of_lt hlt]

theorem pcodeOf_low_48 (code : List Byte) :
    BitVec.ofNat 48 (pcodeOf code).toNat = BitVec.ofNat 48 (le (code.take 6)) := by
  have hlow := toNat_ofNat_le (bs := code.take 4) (List.length_take_le ..)
  have hhigh := toNat_ofNat_le (bs := (code.drop 4).take 2) ((List.length_take_le ..).trans (by decide))
  have hhighLt := (BitVec.ofNat 32 (le ((code.drop 4).take 2))).isLt
  have hlowLt := (BitVec.ofNat 32 (le (code.take 4))).isLt
  rw [pcodeOf, joinHalves, BitVec.toNat_ofNat, hlow, hhigh, ← le_take_six, Nat.mod_eq_of_lt]
  rw [le_take_six]
  omega

/-- A verification whose checks pass (R180). -/
theorem verify_starts (a : Alg) (tolv : Bool) {p : State} (hn : p.status.phase ≠ .busy) (hk : keyLenLegal p = true)
    (hp : p.pcodeLen ≠ 0#32) {want : Snap → Prop} (hwant : want (verifySnap tolv p a)) :
    Starts (.verify (algCode a) tolv) want p := by
  refine ⟨3#4, verifySnap tolv p a, ?_, hwant⟩
  rw [exec_verify_of_not_busy hn, emptyCode_of_ne hp, enterCall_started (resolve_algCode a) hk]

/-- The snapshot of a call whose operands `totpValidate` has loaded (R23, R68). -/
theorem verifySnap_of_loaded {p : State} {a : Alg} {key code : List Byte} {tolerance : Option Word32} {before : Word32}
    {now : Word64} (hsecret : secret p = key) (htime : p.time = now) (htol : p.tolerance = tolerance.getD before)
    (hplen : p.pcodeLen = BitVec.ofNat 32 code.length) (hpcode : p.pcode = pcodeOf code) :
    verifySnap tolerance.isSome p a = .verify a key (BitVec.ofNat 64 (now.toNat / 30)) (tolerance.getD 1#32)
      (BitVec.ofNat 32 code.length) (BitVec.ofNat 48 (le (code.take 6))) := by
  have hwindow : currentWindow p = BitVec.ofNat 64 (now.toNat / 30) := by rw [currentWindow, htime, Config.stepSeconds]
  have heff : effectiveTolerance tolerance.isSome p = tolerance.getD 1#32 := by
    cases tolerance with
    | none => rfl
    | some t => exact htol
  rw [verifySnap, hsecret, hwindow, heff, hplen, presentedCode, hpcode, pcodeOf_low_48]

/-- Settles O52: the operands are loaded, the call becomes BUSY with them, and its end is the verdict on them. -/
theorem totpValidateSequenceReturnsTheVerdict : Obligations.TotpValidateSequenceReturnsTheVerdict := by
  intro s a key code tolerance now polls rest hn hwf hmin hmax hword hcmin hcword hbus verdict
  rw [validateSequence_eq] at hbus ⊢
  have hplen : BitVec.ofNat 32 code.length ≠ 0#32 := by
    rw [← BitVec.toNat_inj.ne, BitVec.toNat_ofNat, Nat.mod_eq_of_lt hcword]
    exact Nat.ne_of_gt hcmin
  have hstart (k : Memory) (r : Reply) (bus : List BusEvent) (hk : k.slice key.length = key) :
      Starts (.verify (algCode a) tolerance.isSome)
        (· = .verify a key (BitVec.ofNat 64 (now.toNat / 30)) (tolerance.getD 1#32) (BitVec.ofNat 32 code.length)
          (BitVec.ofNat 48 (le (code.take 6))))
        (answer r (popEvent bus (loaded key (validateStores code tolerance now) k s))) := by
    rw [loaded_validateStores]
    refine verify_starts a _ ?_ ?_ ?_ ?_
    · exact hn
    · exact keyLenLegal_of_loaded rfl hword hmin hmax
    · exact hplen
    · exact verifySnap_of_loaded (secret_of_loaded rfl hword hk) rfl rfl rfl rfl
  obtain ⟨b, sn, hb, -, hsn, rfl, hrun⟩ := runSteps_hostSequence (i := .verify (algCode a) tolerance.isSome)
    (by cases tolerance <;> simp [validateStores, operandOffsets]) (algFits_algCode a) hn hwf hmax hbus hstart
  obtain ⟨t, ht, hhit, hmiss, hunder⟩ := complete_verdict hb hsn
  obtain ⟨_, hf⟩ := complete_finished hb ht
  exact ⟨_, hrun t ht, rfl, rfl, hf.erasedFrom.1, hhit, hmiss, hunder⟩

end Sys2Proof.Machine
